-- ==== Sys2Proof/Word.lean ====
section
/-! DEFINITION. The unit of every buffer of the RTP NAL framer: the byte, and strings of bytes
(00_scope.md R7, 20_memory.md R46). -/

namespace Sys2Proof

/-- A byte: eight bits, bit 7 the most significant (R7). -/
abbrev Byte := BitVec 8

/-- A byte string `b`, `b[0]` first (R7). Its length is any natural number (log entry 12). -/
abbrev ByteString := List Byte

end Sys2Proof
end

