-- ==== Sys2Proof/Config.lean ====
section
/-! DEFINITION. What is fixed for the machine: the constants of 00_scope.md R4, and the values that the
OPEN parameters of R5 have right after `State.reset` (log entries 1 to 4). -/

namespace Sys2Proof.Config

/-- `RTP_HDR_LEN` (R4). -/
def rtpHdrLen : Nat := 12
/-- `VERSION`, written on transmit (R4, R29: hardwired). -/
def version : BitVec 2 := 2
/-- `PT`, written on transmit (R4, R29: hardwired). -/
def payloadType : BitVec 7 := 96
/-- `CLOCK_RATE` (R4, R29: hardwired). -/
def clockRate : Nat := 90000
/-- `START_CODE` (R4). -/
def startCode : ByteString := [0x00, 0x00, 0x00, 0x01]
/-- `START_CODE_LEN` (R4). -/
def startCodeLen : Nat := 4
/-- `FUA_TYPE` (R4). -/
def fuaType : BitVec 5 := 28
/-- `SINGLE_MIN` (R4). -/
def singleMin : Nat := 1
/-- `SINGLE_MAX` (R4). -/
def singleMax : Nat := 23
/-- `FU265_TYPE` (R4): named by the codec's data model only, no operation tests it (R66, R78). -/
def fu265Type : BitVec 6 := 49
/-- `MIN_RX_LEN` (R4). -/
def minRxLen : Nat := 13
/-- `MIN_TX_LEN` (R4). -/
def minTxLen : Nat := 6

/-- `SEQ_INIT` (R5, R33, D6): OPEN, the spec's default. -/
def seqInit : BitVec 16 := 0
/-- `TS_INIT` (R5, R33, D7): OPEN, the spec's default. -/
def tsInit : BitVec 32 := 0
/-- `SSRC` right after reset. DESIGN CHOICE (log entry 2): R33 gives no reset value. Unsafe. -/
def ssrcReset : BitVec 32 := 0
/-- `MAX_PAYLOAD` right after reset. DESIGN CHOICE (log entry 3): R33 gives no reset value; 1200 is the
one value the source names (R5). Unsafe. -/
def maxPayloadReset : BitVec 16 := 1200
/-- `MAX_NALU` right after reset. DESIGN CHOICE (log entry 4): R33 gives no reset value; 65536 is the value
of the example of R180. Unsafe. -/
def maxNaluReset : Nat := 65536

end Sys2Proof.Config
end

