-- ==== Sys2Proof/Syntax.lean ====
section
/-! DEFINITION. The operations of the block as plain data: one constructor of `Instr` for each row of
spec/opcode_table.json, in the table's order (30_encoding.md R70 to R72), and the RTP header record that
several of them carry. -/

namespace Sys2Proof

/-- The record `(V, P, X, CC, M, PT, seq, ts, ssrc)` of the RTP header (R61, R90). -/
structure RtpHeader where
  v    : BitVec 2
  p    : BitVec 1
  x    : BitVec 1
  cc   : BitVec 4
  m    : BitVec 1
  pt   : BitVec 7
  seq  : BitVec 16
  ts   : BitVec 32
  ssrc : BitVec 32
  deriving DecidableEq, Repr

/-- One constructor per row of spec/opcode_table.json.

* format `rxlen`, `rxclass`, `rxclass_len13`: an inbound packet as the decode map of R70 sees it. `h` is the RTP
  header (bytes 0 to 11), `f` and `nri` the bits 7 and 6:5 of `payload[0]`, the type is the row's own;
  `rest` is `p[13:]`, `body` is the fragment body `p[14:]`.
* format `txpkt`: an outbound packet of one of the four kinds of R71. `f`, `nri`, `ty` are the fields of `body[0]`
  and `rest` or `slice` the bytes after the 13 or 14 bytes of the row's pattern. The pattern's sequence number,
  timestamp and SSRC are no operands: the table defines them as `SEQ` after `SEQ_NEXT`, `TS`, `SSRC`.
* format `struct`: one of the six wire structures (R61 to R66) with its variable fields.
* format `op`: the operations numbered 0 to 17 by R72. -/
inductive Instr where
  | rxTooShort (p : ByteString)
  | rxSingleT01 (h : RtpHeader) (f : BitVec 1) (nri : BitVec 2) (rest : ByteString)
  | rxSingleT02 (h : RtpHeader) (f : BitVec 1) (nri : BitVec 2) (rest : ByteString)
  | rxSingleT03 (h : RtpHeader) (f : BitVec 1) (nri : BitVec 2) (rest : ByteString)
  | rxSingleT04 (h : RtpHeader) (f : BitVec 1) (nri : BitVec 2) (rest : ByteString)
  | rxSingleT05 (h : RtpHeader) (f : BitVec 1) (nri : BitVec 2) (rest : ByteString)
  | rxSingleT06 (h : RtpHeader) (f : BitVec 1) (nri : BitVec 2) (rest : ByteString)
  | rxSingleT07 (h : RtpHeader) (f : BitVec 1) (nri : BitVec 2) (rest : ByteString)
  | rxSingleT08 (h : RtpHeader) (f : BitVec 1) (nri : BitVec 2) (rest : ByteString)
  | rxSingleT09 (h : RtpHeader) (f : BitVec 1) (nri : BitVec 2) (rest : ByteString)
  | rxSingleT10 (h : RtpHeader) (f : BitVec 1) (nri : BitVec 2) (rest : ByteString)
  | rxSingleT11 (h : RtpHeader) (f : BitVec 1) (nri : BitVec 2) (rest : ByteString)
  | rxSingleT12 (h : RtpHeader) (f : BitVec 1) (nri : BitVec 2) (rest : ByteString)
  | rxSingleT13 (h : RtpHeader) (f : BitVec 1) (nri : BitVec 2) (rest : ByteString)
  | rxSingleT14 (h : RtpHeader) (f : BitVec 1) (nri : BitVec 2) (rest : ByteString)
  | rxSingleT15 (h : RtpHeader) (f : BitVec 1) (nri : BitVec 2) (rest : ByteString)
  | rxSingleT16 (h : RtpHeader) (f : BitVec 1) (nri : BitVec 2) (rest : ByteString)
  | rxSingleT17 (h : RtpHeader) (f : BitVec 1) (nri : BitVec 2) (rest : ByteString)
  | rxSingleT18 (h : RtpHeader) (f : BitVec 1) (nri : BitVec 2) (rest : ByteString)
  | rxSingleT19 (h : RtpHeader) (f : BitVec 1) (nri : BitVec 2) (rest : ByteString)
  | rxSingleT20 (h : RtpHeader) (f : BitVec 1) (nri : BitVec 2) (rest : ByteString)
  | rxSingleT21 (h : RtpHeader) (f : BitVec 1) (nri : BitVec 2) (rest : ByteString)
  | rxSingleT22 (h : RtpHeader) (f : BitVec 1) (nri : BitVec 2) (rest : ByteString)
  | rxSingleT23 (h : RtpHeader) (f : BitVec 1) (nri : BitVec 2) (rest : ByteString)
  | rxFuTrunc (h : RtpHeader) (f : BitVec 1) (nri : BitVec 2)
  | rxFuStart (h : RtpHeader) (f : BitVec 1) (nri : BitVec 2) (e r : BitVec 1) (ty : BitVec 5) (body : ByteString)
  | rxFuMid (h : RtpHeader) (f : BitVec 1) (nri : BitVec 2) (r : BitVec 1) (ty : BitVec 5) (body : ByteString)
  | rxFuEnd (h : RtpHeader) (f : BitVec 1) (nri : BitVec 2) (r : BitVec 1) (ty : BitVec 5) (body : ByteString)
  | rxOtherT00 (h : RtpHeader) (f : BitVec 1) (nri : BitVec 2) (rest : ByteString)
  | rxOtherT24 (h : RtpHeader) (f : BitVec 1) (nri : BitVec 2) (rest : ByteString)
  | rxOtherT25 (h : RtpHeader) (f : BitVec 1) (nri : BitVec 2) (rest : ByteString)
  | rxOtherT26 (h : RtpHeader) (f : BitVec 1) (nri : BitVec 2) (rest : ByteString)
  | rxOtherT27 (h : RtpHeader) (f : BitVec 1) (nri : BitVec 2) (rest : ByteString)
  | rxOtherT29 (h : RtpHeader) (f : BitVec 1) (nri : BitVec 2) (rest : ByteString)
  | rxOtherT30 (h : RtpHeader) (f : BitVec 1) (nri : BitVec 2) (rest : ByteString)
  | rxOtherT31 (h : RtpHeader) (f : BitVec 1) (nri : BitVec 2) (rest : ByteString)
  | txSingle (f : BitVec 1) (nri : BitVec 2) (ty : BitVec 5) (rest : ByteString)
  | txFuStart (f : BitVec 1) (nri : BitVec 2) (ty : BitVec 5) (slice : ByteString)
  | txFuMid (f : BitVec 1) (nri : BitVec 2) (ty : BitVec 5) (slice : ByteString)
  | txFuEnd (f : BitVec 1) (nri : BitVec 2) (ty : BitVec 5) (slice : ByteString)
  | structRtpHeader (h : RtpHeader)
  | structNalHeaderH264 (f : BitVec 1) (nri : BitVec 2) (ty : BitVec 5)
  | structFuIndicatorH264 (f : BitVec 1) (nri : BitVec 2)
  | structFuHeaderH264 (sb e : BitVec 1) (ty : BitVec 5)
  | structNalHeaderH265 (f : BitVec 1) (ty layerId : BitVec 6) (tid : BitVec 3)
  | structFuHeaderH265 (sb e : BitVec 1) (fuType : BitVec 6)
  | rtpDec (b : ByteString)
  | rtpEnc (h : RtpHeader)
  | nalhDec (b : ByteString)
  | nalhEnc (f : BitVec 1) (nri : BitVec 2) (ty : BitVec 5)
  | fuiDec (b : ByteString)
  | fuiEnc (f : BitVec 1) (nri : BitVec 2)
  | fuhDec (b : ByteString)
  | fuhEnc (sb e : BitVec 1) (ty : BitVec 5)
  | nalh265Dec (b : ByteString)
  | nalh265Enc (f : BitVec 1) (ty layerId : BitVec 6) (tid : BitVec 3)
  | fuh265Dec (b : ByteString)
  | fuh265Enc (sb e : BitVec 1) (fuType : BitVec 6)
  | onPacket (p : ByteString)
  | packetize (u : ByteString) (fps : BitVec 32)
  | seqNext
  | tsAdvance (fps : BitVec 32)
  | rxReset (maxNalu : Nat)
  | txReset (maxPayload : BitVec 16) (ssrc : BitVec 32) (seq : BitVec 16) (ts : BitVec 32)
  deriving DecidableEq, Repr

/-- The position of an instruction's row in spec/opcode_table.json, from 0. -/
def Instr.row (i : Instr) : Nat :=
  match i with
  | .rxTooShort _ => 0
  | .rxSingleT01 _ _ _ _ => 1
  | .rxSingleT02 _ _ _ _ => 2
  | .rxSingleT03 _ _ _ _ => 3
  | .rxSingleT04 _ _ _ _ => 4
  | .rxSingleT05 _ _ _ _ => 5
  | .rxSingleT06 _ _ _ _ => 6
  | .rxSingleT07 _ _ _ _ => 7
  | .rxSingleT08 _ _ _ _ => 8
  | .rxSingleT09 _ _ _ _ => 9
  | .rxSingleT10 _ _ _ _ => 10
  | .rxSingleT11 _ _ _ _ => 11
  | .rxSingleT12 _ _ _ _ => 12
  | .rxSingleT13 _ _ _ _ => 13
  | .rxSingleT14 _ _ _ _ => 14
  | .rxSingleT15 _ _ _ _ => 15
  | .rxSingleT16 _ _ _ _ => 16
  | .rxSingleT17 _ _ _ _ => 17
  | .rxSingleT18 _ _ _ _ => 18
  | .rxSingleT19 _ _ _ _ => 19
  | .rxSingleT20 _ _ _ _ => 20
  | .rxSingleT21 _ _ _ _ => 21
  | .rxSingleT22 _ _ _ _ => 22
  | .rxSingleT23 _ _ _ _ => 23
  | .rxFuTrunc _ _ _ => 24
  | .rxFuStart _ _ _ _ _ _ _ => 25
  | .rxFuMid _ _ _ _ _ _ => 26
  | .rxFuEnd _ _ _ _ _ _ => 27
  | .rxOtherT00 _ _ _ _ => 28
  | .rxOtherT24 _ _ _ _ => 29
  | .rxOtherT25 _ _ _ _ => 30
  | .rxOtherT26 _ _ _ _ => 31
  | .rxOtherT27 _ _ _ _ => 32
  | .rxOtherT29 _ _ _ _ => 33
  | .rxOtherT30 _ _ _ _ => 34
  | .rxOtherT31 _ _ _ _ => 35
  | .txSingle _ _ _ _ => 36
  | .txFuStart _ _ _ _ => 37
  | .txFuMid _ _ _ _ => 38
  | .txFuEnd _ _ _ _ => 39
  | .structRtpHeader _ => 40
  | .structNalHeaderH264 _ _ _ => 41
  | .structFuIndicatorH264 _ _ => 42
  | .structFuHeaderH264 _ _ _ => 43
  | .structNalHeaderH265 _ _ _ _ => 44
  | .structFuHeaderH265 _ _ _ => 45
  | .rtpDec _ => 46
  | .rtpEnc _ => 47
  | .nalhDec _ => 48
  | .nalhEnc _ _ _ => 49
  | .fuiDec _ => 50
  | .fuiEnc _ _ => 51
  | .fuhDec _ => 52
  | .fuhEnc _ _ _ => 53
  | .nalh265Dec _ => 54
  | .nalh265Enc _ _ _ _ => 55
  | .fuh265Dec _ => 56
  | .fuh265Enc _ _ _ => 57
  | .onPacket _ => 58
  | .packetize _ _ => 59
  | .seqNext => 60
  | .tsAdvance _ => 61
  | .rxReset _ => 62
  | .txReset _ _ _ _ => 63

end Sys2Proof
end

