-- ==== Sys2Proof/Machine/Operands.lean ====
section
/-! DEFINITION. Operands: reading byte strings, big-endian numbers, and the bit fields of the wire structures, packed
and unpacked (00_scope.md R7, R8; 30_encoding.md R61 to R66, R69). The decoder, the codec and both engines use these. -/

namespace Sys2Proof.Machine

/-! ### Byte strings (R7, R8) -/

/-- `b[k]`. Every rule checks the length before it reads (R9), so the value past the end is never used. -/
def byteAt (b : ByteString) (k : Nat) : Byte := b.getD k 0

/-- `b[i:j]` (R7). -/
def slice (b : ByteString) (i j : Nat) : ByteString := (b.drop i).take (j - i)

/-- `be16(b, k)` (R8). -/
def be16 (b : ByteString) (k : Nat) : BitVec 16 := byteAt b k ++ byteAt b (k + 1)

/-- `be32(b, k)` (R8). -/
def be32 (b : ByteString) (k : Nat) : BitVec 32 :=
  byteAt b k ++ byteAt b (k + 1) ++ byteAt b (k + 2) ++ byteAt b (k + 3)

/-- `to_be16(v)` (R8). -/
def toBe16 (v : BitVec 16) : ByteString := [v.extractLsb' 8 8, v.extractLsb' 0 8]

/-- `to_be32(v)` (R8). -/
def toBe32 (v : BitVec 32) : ByteString :=
  [v.extractLsb' 24 8, v.extractLsb' 16 8, v.extractLsb' 8 8, v.extractLsb' 0 8]

/-! ### RTP header (R61) -/

/-- `b[0:12]` read as an RTP header: the body of `RTP_DEC` after its length check (R90). -/
def rtpUnpack (b : ByteString) : RtpHeader where
  v := (byteAt b 0).extractLsb' 6 2
  p := (byteAt b 0).extractLsb' 5 1
  x := (byteAt b 0).extractLsb' 4 1
  cc := (byteAt b 0).extractLsb' 0 4
  m := (byteAt b 1).extractLsb' 7 1
  pt := (byteAt b 1).extractLsb' 0 7
  seq := be16 b 2
  ts := be32 b 4
  ssrc := be32 b 8

/-- The twelve bytes of an RTP header: `RTP_ENC` (R91). -/
def rtpPack (h : RtpHeader) : ByteString :=
  [h.v ++ h.p ++ h.x ++ h.cc, h.m ++ h.pt] ++ toBe16 h.seq ++ toBe32 h.ts ++ toBe32 h.ssrc

/-! ### H.264 NAL header, FU indicator, FU header (R62, R63, R64)

The NAL header and the FU indicator share one layout. -/

/-- `F`, bit 7 of a NAL header or FU indicator. -/
def nalF (b : Byte) : BitVec 1 := b.extractLsb' 7 1
/-- `NRI`, bits 6:5 of a NAL header or FU indicator. -/
def nalNri (b : Byte) : BitVec 2 := b.extractLsb' 5 2
/-- `Type`, bits 4:0 of a NAL header, FU indicator or FU header. -/
def nalType (b : Byte) : BitVec 5 := b.extractLsb' 0 5
/-- The byte `{F, NRI, Type}` (R62). -/
def nalByte (f : BitVec 1) (nri : BitVec 2) (ty : BitVec 5) : Byte := f ++ nri ++ ty
/-- The FU indicator `{F, NRI, 28}` (R63). -/
def fuIndicator (f : BitVec 1) (nri : BitVec 2) : Byte := nalByte f nri Config.fuaType

/-- `S`, bit 7 of an FU header. -/
def fuS (b : Byte) : BitVec 1 := b.extractLsb' 7 1
/-- `E`, bit 6 of an FU header. -/
def fuE (b : Byte) : BitVec 1 := b.extractLsb' 6 1
/-- `R`, bit 5 of an FU header. -/
def fuR (b : Byte) : BitVec 1 := b.extractLsb' 5 1
/-- The FU header byte `{S, E, R, Type}` (R64). -/
def fuHeaderByte (s e r : BitVec 1) (ty : BitVec 5) : Byte := s ++ e ++ r ++ ty
/-- The FU header as it is encoded: the reserved bit is zero (R73, R97). -/
def fuHeader (s e : BitVec 1) (ty : BitVec 5) : Byte := fuHeaderByte s e 0 ty

/-! ### H.265 NAL header and FU header (R65, R66) -/

/-- The sixteen bits `{F, Type, LayerId, TID}` (R65), big-endian. -/
def nal265Pack (f : BitVec 1) (ty layerId : BitVec 6) (tid : BitVec 3) : ByteString :=
  toBe16 (f ++ ty ++ layerId ++ tid)
/-- `F` of an H.265 NAL header. -/
def nal265F (b : ByteString) : BitVec 1 := (be16 b 0).extractLsb' 15 1
/-- `Type` of an H.265 NAL header. -/
def nal265Type (b : ByteString) : BitVec 6 := (be16 b 0).extractLsb' 9 6
/-- `LayerId` of an H.265 NAL header; it crosses the byte boundary. -/
def nal265LayerId (b : ByteString) : BitVec 6 := (be16 b 0).extractLsb' 3 6
/-- `TID` of an H.265 NAL header, temporal-id plus 1 as it stands. -/
def nal265Tid (b : ByteString) : BitVec 3 := (be16 b 0).extractLsb' 0 3

/-- `FuType`, bits 5:0 of an H.265 FU header. -/
def fu265Type (b : Byte) : BitVec 6 := b.extractLsb' 0 6
/-- The H.265 FU header byte `{S, E, FuType}` (R66). -/
def fu265Byte (s e : BitVec 1) (fuType : BitVec 6) : Byte := s ++ e ++ fuType

/-! ### Field assembly between the two sides (R69) -/

/-- The NAL header byte the receive side synthesises from `payload[0]` and `payload[1]` (R69, R116). -/
def synthesisedHeader (b0 fh : Byte) : Byte := (b0 &&& 0xE0) ||| (fh &&& 0x1F)

/-! ### Natural numbers as bytes, for the operand of `RX_RESET` (log entry 8) -/

/-- A big-endian byte string as a natural number. -/
def natOfBytes (b : ByteString) : Nat := b.foldl (fun n x => n * 256 + x.toNat) 0

/-- The last `k` bytes of the big-endian form of `n`. -/
def natToBytesFixed : Nat → Nat → ByteString
  | 0, _ => []
  | k + 1, n => natToBytesFixed k (n / 256) ++ [BitVec.ofNat 8 n]

/-- A natural number as a big-endian byte string that is long enough for it. -/
def natToBytes (n : Nat) : ByteString := natToBytesFixed (n.log2 / 8 + 1) n

end Sys2Proof.Machine
end

