-- ==== Sys2Proof/WellFormed.lean ====
section
/-! DEFINITION. Which instructions are well formed: the operand values the spec calls legal, where the operand's
type does not already say so. The meanings are total all the same: what an ill-formed operand does is in the
log entries named here. -/

namespace Sys2Proof

/-- A byte string inside the block's domain: fewer than `2^LEN_W` bytes (R5, D31; log entry 12). -/
def lengthInDomain (n : Nat) : Bool := decide (n < 2 ^ 32)

/-- The legal operands of each instruction.

* `RX_TOO_SHORT` has at most 12 bytes (R111; a longer one: log entry 10).
* A `TX_SINGLE` or fragment carries at least one byte after its pattern (R68, R133, R136). Its upper bound `MAX_PAYLOAD` is
  a matter of the state and is not checked here. The meaning runs outside both bounds: DESIGN CHOICE, log entry 11.
* `TS_ADVANCE` has a frame rate that is not 0 (R151; 0: log entry 17); `PACKETIZE` may have any (R138).
* `RX_RESET` has `max_nalu` at least 5 (R184; less: log entry 16).
* `TX_RESET` has a `max_payload` of at least 1 (R184; 0: log entry 15).
* Every byte string is shorter than 2^32 bytes (D31; longer ones: log entry 12). -/
def Instr.wellFormed (i : Instr) : Bool :=
  match i with
  | .rxTooShort p => decide (p.length < Config.minRxLen)
  | .rxSingleT01 _ _ _ rest => lengthInDomain (13 + rest.length)
  | .rxSingleT02 _ _ _ rest => lengthInDomain (13 + rest.length)
  | .rxSingleT03 _ _ _ rest => lengthInDomain (13 + rest.length)
  | .rxSingleT04 _ _ _ rest => lengthInDomain (13 + rest.length)
  | .rxSingleT05 _ _ _ rest => lengthInDomain (13 + rest.length)
  | .rxSingleT06 _ _ _ rest => lengthInDomain (13 + rest.length)
  | .rxSingleT07 _ _ _ rest => lengthInDomain (13 + rest.length)
  | .rxSingleT08 _ _ _ rest => lengthInDomain (13 + rest.length)
  | .rxSingleT09 _ _ _ rest => lengthInDomain (13 + rest.length)
  | .rxSingleT10 _ _ _ rest => lengthInDomain (13 + rest.length)
  | .rxSingleT11 _ _ _ rest => lengthInDomain (13 + rest.length)
  | .rxSingleT12 _ _ _ rest => lengthInDomain (13 + rest.length)
  | .rxSingleT13 _ _ _ rest => lengthInDomain (13 + rest.length)
  | .rxSingleT14 _ _ _ rest => lengthInDomain (13 + rest.length)
  | .rxSingleT15 _ _ _ rest => lengthInDomain (13 + rest.length)
  | .rxSingleT16 _ _ _ rest => lengthInDomain (13 + rest.length)
  | .rxSingleT17 _ _ _ rest => lengthInDomain (13 + rest.length)
  | .rxSingleT18 _ _ _ rest => lengthInDomain (13 + rest.length)
  | .rxSingleT19 _ _ _ rest => lengthInDomain (13 + rest.length)
  | .rxSingleT20 _ _ _ rest => lengthInDomain (13 + rest.length)
  | .rxSingleT21 _ _ _ rest => lengthInDomain (13 + rest.length)
  | .rxSingleT22 _ _ _ rest => lengthInDomain (13 + rest.length)
  | .rxSingleT23 _ _ _ rest => lengthInDomain (13 + rest.length)
  | .rxFuTrunc _ _ _ => true
  | .rxFuStart _ _ _ _ _ _ body => lengthInDomain (14 + body.length)
  | .rxFuMid _ _ _ _ _ body => lengthInDomain (14 + body.length)
  | .rxFuEnd _ _ _ _ _ body => lengthInDomain (14 + body.length)
  | .rxOtherT00 _ _ _ rest => lengthInDomain (13 + rest.length)
  | .rxOtherT24 _ _ _ rest => lengthInDomain (13 + rest.length)
  | .rxOtherT25 _ _ _ rest => lengthInDomain (13 + rest.length)
  | .rxOtherT26 _ _ _ rest => lengthInDomain (13 + rest.length)
  | .rxOtherT27 _ _ _ rest => lengthInDomain (13 + rest.length)
  | .rxOtherT29 _ _ _ rest => lengthInDomain (13 + rest.length)
  | .rxOtherT30 _ _ _ rest => lengthInDomain (13 + rest.length)
  | .rxOtherT31 _ _ _ rest => lengthInDomain (13 + rest.length)
  | .txSingle _ _ _ rest => decide (1 ≤ rest.length) && lengthInDomain (13 + rest.length)
  | .txFuStart _ _ _ slice => decide (1 ≤ slice.length) && lengthInDomain (14 + slice.length)
  | .txFuMid _ _ _ slice => decide (1 ≤ slice.length) && lengthInDomain (14 + slice.length)
  | .txFuEnd _ _ _ slice => decide (1 ≤ slice.length) && lengthInDomain (14 + slice.length)
  | .structRtpHeader _ => true
  | .structNalHeaderH264 _ _ _ => true
  | .structFuIndicatorH264 _ _ => true
  | .structFuHeaderH264 _ _ _ => true
  | .structNalHeaderH265 _ _ _ _ => true
  | .structFuHeaderH265 _ _ _ => true
  | .rtpDec b => lengthInDomain b.length
  | .rtpEnc _ => true
  | .nalhDec b => lengthInDomain b.length
  | .nalhEnc _ _ _ => true
  | .fuiDec b => lengthInDomain b.length
  | .fuiEnc _ _ => true
  | .fuhDec b => lengthInDomain b.length
  | .fuhEnc _ _ _ => true
  | .nalh265Dec b => lengthInDomain b.length
  | .nalh265Enc _ _ _ _ => true
  | .fuh265Dec b => lengthInDomain b.length
  | .fuh265Enc _ _ _ => true
  | .onPacket p => lengthInDomain p.length
  | .packetize u _ => lengthInDomain u.length
  | .seqNext => true
  | .tsAdvance fps => decide (fps ≠ 0)
  | .rxReset maxNalu => decide (5 ≤ maxNalu)
  | .txReset maxPayload _ _ _ => decide (maxPayload ≠ 0)

end Sys2Proof
end

