-- ==== Sys2Proof/Decode.lean ====
section
/-! DEFINITION. The decoder, total on any bytes, and after it the encoder. A message reaches the block as a `Frame`: its
bytes, and the format in which spec/opcode_table.json lists the patterns those bytes are matched against. The
receive classes are the decode map of R70; the other formats follow R61 to R66, R71 and R72 and log entries 8 to 11. -/

namespace Sys2Proof

open Sys2Proof.Machine

/-- The format of a message, as the table's "format" key names it; the `struct` rows, which no bit tells apart, one
by one, and the `txpkt` rows by the length of their pattern. -/
inductive Format where
  /-- An operation number and its operands (format `op`, R72). -/
  | op
  /-- An inbound RTP packet on `pkt_in` (formats `rxlen`, `rxclass`, `rxclass_len13`, R70). -/
  | pktIn
  /-- An outbound single packet, 13-byte pattern (format `txpkt`, R71). -/
  | txSingle
  /-- An outbound fragment, 14-byte pattern (format `txpkt`, R71). -/
  | txFragment
  /-- Format `struct`, R61. -/
  | rtpHeader
  /-- Format `struct`, R62. -/
  | nalHeaderH264
  /-- Format `struct`, R63. -/
  | fuIndicatorH264
  /-- Format `struct`, R64. -/
  | fuHeaderH264
  /-- Format `struct`, R65. -/
  | nalHeaderH265
  /-- Format `struct`, R66. -/
  | fuHeaderH265
  deriving DecidableEq, Repr

/-- One whole message (R30): its format and its bytes, lowest offset first. -/
structure Frame where
  fmt   : Format
  bytes : ByteString
  deriving DecidableEq, Repr

/-- Why a message spells no operation. -/
inductive DecodeError where
  /-- The 5-bit operation index is 18 to 31: R72 numbers none. -/
  | unknownOperation
  /-- Fewer bytes than the operation's operands or the structure take. -/
  | truncatedFrame
  /-- More bytes than the operation's operands or the structure take. -/
  | trailingBytes
  /-- A field's value is wider than the field: outside the codec's domain (R102, D29, U15). -/
  | fieldOverWide
  /-- A fixed bit of the row's pattern has the other value. -/
  | patternMismatch
  deriving DecidableEq, Repr

/-! ### Inbound packets (R70) -/

/-- The class of a packet of type 28 (R70): told by its length, then by `S`, then by `E`. -/
def classifyFuA (h : RtpHeader) (f : BitVec 1) (nri : BitVec 2) (p : ByteString) : Instr :=
  if p.length < 14 then .rxFuTrunc h f nri
  else
    let fh := byteAt p 13
    if fuS fh = 1 then .rxFuStart h f nri (fuE fh) (fuR fh) (nalType fh) (p.drop 14)
    else if fuE fh = 0 then .rxFuMid h f nri (fuR fh) (nalType fh) (p.drop 14)
    else .rxFuEnd h f nri (fuR fh) (nalType fh) (p.drop 14)

/-- The class of a packet `p` of at least 13 bytes by the type `t` of `payload[0]` (R70). The last arm is type 31, the one
value of five bits left. -/
def classifyType (t : Nat) (h : RtpHeader) (f : BitVec 1) (nri : BitVec 2) (p : ByteString) : Instr :=
  let rest := p.drop 13
  match t with
  | 0 => .rxOtherT00 h f nri rest
  | 1 => .rxSingleT01 h f nri rest
  | 2 => .rxSingleT02 h f nri rest
  | 3 => .rxSingleT03 h f nri rest
  | 4 => .rxSingleT04 h f nri rest
  | 5 => .rxSingleT05 h f nri rest
  | 6 => .rxSingleT06 h f nri rest
  | 7 => .rxSingleT07 h f nri rest
  | 8 => .rxSingleT08 h f nri rest
  | 9 => .rxSingleT09 h f nri rest
  | 10 => .rxSingleT10 h f nri rest
  | 11 => .rxSingleT11 h f nri rest
  | 12 => .rxSingleT12 h f nri rest
  | 13 => .rxSingleT13 h f nri rest
  | 14 => .rxSingleT14 h f nri rest
  | 15 => .rxSingleT15 h f nri rest
  | 16 => .rxSingleT16 h f nri rest
  | 17 => .rxSingleT17 h f nri rest
  | 18 => .rxSingleT18 h f nri rest
  | 19 => .rxSingleT19 h f nri rest
  | 20 => .rxSingleT20 h f nri rest
  | 21 => .rxSingleT21 h f nri rest
  | 22 => .rxSingleT22 h f nri rest
  | 23 => .rxSingleT23 h f nri rest
  | 24 => .rxOtherT24 h f nri rest
  | 25 => .rxOtherT25 h f nri rest
  | 26 => .rxOtherT26 h f nri rest
  | 27 => .rxOtherT27 h f nri rest
  | 28 => classifyFuA h f nri p
  | 29 => .rxOtherT29 h f nri rest
  | 30 => .rxOtherT30 h f nri rest
  | _ => .rxOtherT31 h f nri rest

/-- The decode map of an inbound packet (R70, R111, R113): every packet has a class. -/
def classify (p : ByteString) : Instr :=
  if p.length < Config.minRxLen then .rxTooShort p
  else classifyType (nalType (byteAt p 12)).toNat (rtpUnpack p) (nalF (byteAt p 12)) (nalNri (byteAt p 12)) p

/-- A row of format `rxclass`: `match`, `mask` and the row's place in the table. -/
structure ClassRow where
  value : Nat
  mask  : Nat
  row   : Nat
  deriving DecidableEq, Repr

/-- The rows of format `rxclass` as spec/opcode_table.json gives them (R70). -/
def classRows : List ClassRow :=
  [⟨0x100, 0x1f00, 1⟩, ⟨0x200, 0x1f00, 2⟩, ⟨0x300, 0x1f00, 3⟩, ⟨0x400, 0x1f00, 4⟩, ⟨0x500, 0x1f00, 5⟩, ⟨0x600, 0x1f00, 6⟩, ⟨0x700, 0x1f00, 7⟩, ⟨0x800, 0x1f00, 8⟩, ⟨0x900, 0x1f00, 9⟩, ⟨0xa00, 0x1f00, 10⟩, ⟨0xb00, 0x1f00, 11⟩, ⟨0xc00, 0x1f00, 12⟩] ++
  [⟨0xd00, 0x1f00, 13⟩, ⟨0xe00, 0x1f00, 14⟩, ⟨0xf00, 0x1f00, 15⟩, ⟨0x1000, 0x1f00, 16⟩, ⟨0x1100, 0x1f00, 17⟩, ⟨0x1200, 0x1f00, 18⟩, ⟨0x1300, 0x1f00, 19⟩, ⟨0x1400, 0x1f00, 20⟩, ⟨0x1500, 0x1f00, 21⟩, ⟨0x1600, 0x1f00, 22⟩, ⟨0x1700, 0x1f00, 23⟩, ⟨0x1c80, 0x1f80, 25⟩, ⟨0x1c00, 0x1fc0, 26⟩, ⟨0x1c40, 0x1fc0, 27⟩] ++
  [⟨0x0, 0x1f00, 28⟩, ⟨0x1800, 0x1f00, 29⟩, ⟨0x1900, 0x1f00, 30⟩, ⟨0x1a00, 0x1f00, 31⟩, ⟨0x1b00, 0x1f00, 32⟩, ⟨0x1d00, 0x1f00, 33⟩, ⟨0x1e00, 0x1f00, 34⟩, ⟨0x1f00, 0x1f00, 35⟩]

/-- The 16-bit word `payload[0]*256 + payload[1]` that a class row is matched against (R70). -/
def classWord (p : ByteString) : Nat := (byteAt p 12).toNat * 256 + (byteAt p 13).toNat

/-! ### Operations (R72; operand bytes: log entry 8) -/

/-- Operand `k`, one byte that holds a field of `w` bits. -/
def operandField (w : Nat) (b : ByteString) (k : Nat) : BitVec w := (byteAt b k).setWidth w

/-- Accepts `i` when the operand bytes are as many as `widths` lists and each fits its width. -/
def withFields (widths : List Nat) (b : ByteString) (i : Instr) : Except DecodeError Instr :=
  if b.length < widths.length then .error .truncatedFrame
  else if widths.length < b.length then .error .trailingBytes
  else if (widths.zip b).all (fun x => decide (x.2.toNat < 2 ^ x.1)) then .ok i
  else .error .fieldOverWide

/-- The record operand of `RTP_ENC`: one byte for each field narrower than a byte, then `seq`, `ts`, `ssrc` big-endian. -/
def rtpOperands (b : ByteString) : RtpHeader where
  v := operandField 2 b 0
  p := operandField 1 b 1
  x := operandField 1 b 2
  cc := operandField 4 b 3
  m := operandField 1 b 4
  pt := operandField 7 b 5
  seq := be16 b 6
  ts := be32 b 8
  ssrc := be32 b 12

/-- Decodes operation number `k` of R72 with operand bytes `b`. -/
def decodeOperation (k : Nat) (b : ByteString) : Except DecodeError Instr :=
  match k with
  | 0 => .ok (.rtpDec b)
  | 1 => withFields [2, 1, 1, 4, 1, 7, 8, 8, 8, 8, 8, 8, 8, 8, 8, 8] b (.rtpEnc (rtpOperands b))
  | 2 => .ok (.nalhDec b)
  | 3 => withFields [1, 2, 5] b (.nalhEnc (operandField 1 b 0) (operandField 2 b 1) (operandField 5 b 2))
  | 4 => .ok (.fuiDec b)
  | 5 => withFields [1, 2] b (.fuiEnc (operandField 1 b 0) (operandField 2 b 1))
  | 6 => .ok (.fuhDec b)
  | 7 => withFields [1, 1, 5] b (.fuhEnc (operandField 1 b 0) (operandField 1 b 1) (operandField 5 b 2))
  | 8 => .ok (.nalh265Dec b)
  | 9 => withFields [1, 6, 6, 3] b
      (.nalh265Enc (operandField 1 b 0) (operandField 6 b 1) (operandField 6 b 2) (operandField 3 b 3))
  | 10 => .ok (.fuh265Dec b)
  | 11 => withFields [1, 1, 6] b (.fuh265Enc (operandField 1 b 0) (operandField 1 b 1) (operandField 6 b 2))
  | 12 => .ok (.onPacket b)
  | 13 => if b.length < 4 then .error .truncatedFrame else .ok (.packetize (b.drop 4) (be32 b 0))
  | 14 => withFields [] b .seqNext
  | 15 => withFields [8, 8, 8, 8] b (.tsAdvance (be32 b 0))
  | 16 => .ok (.rxReset (natOfBytes b))
  | 17 => withFields [8, 8, 8, 8, 8, 8, 8, 8, 8, 8, 8, 8] b (.txReset (be16 b 0) (be32 b 2) (be16 b 6) (be32 b 8))
  | _ => .error .unknownOperation

/-- A message of format `op`: the operation index is the low five bits of the first byte (the table's mask 0x1F). -/
def decodeOpFrame (b : ByteString) : Except DecodeError Instr :=
  match b with
  | [] => .error .truncatedFrame
  | c :: operands => decodeOperation (c.extractLsb' 0 5).toNat operands

/-! ### Outbound packets (R71; the table's `txpkt` patterns) -/

/-- An outbound single packet: bytes 0 and 1 are `80 E0`; byte 12 is `{f, n, y}`. -/
def decodeTxSingle (b : ByteString) : Except DecodeError Instr :=
  if b.length < 13 then .error .truncatedFrame
  else if byteAt b 0 = 0x80 ∧ byteAt b 1 = 0xE0 then
    .ok (.txSingle (nalF (byteAt b 12)) (nalNri (byteAt b 12)) (nalType (byteAt b 12)) (b.drop 13))
  else .error .patternMismatch

/-- An outbound fragment: byte 0 is `80`, byte 12 has type 28, the bit `R` of byte 13 is 0, and `M`, `S`, `E` are those
of one of the three fragment rows. -/
def decodeTxFragment (b : ByteString) : Except DecodeError Instr :=
  let ind := byteAt b 12
  let fh := byteAt b 13
  if b.length < 14 then .error .truncatedFrame
  else if byteAt b 0 = 0x80 ∧ nalType ind = Config.fuaType ∧ fuR fh = 0 then
    if byteAt b 1 = 0x60 ∧ fuS fh = 1 ∧ fuE fh = 0 then .ok (.txFuStart (nalF ind) (nalNri ind) (nalType fh) (b.drop 14))
    else if byteAt b 1 = 0x60 ∧ fuS fh = 0 ∧ fuE fh = 0 then
      .ok (.txFuMid (nalF ind) (nalNri ind) (nalType fh) (b.drop 14))
    else if byteAt b 1 = 0xE0 ∧ fuS fh = 0 ∧ fuE fh = 1 then
      .ok (.txFuEnd (nalF ind) (nalNri ind) (nalType fh) (b.drop 14))
    else .error .patternMismatch
  else .error .patternMismatch

/-! ### Structures (R61 to R66; the table's `struct` patterns) -/

/-- Accepts `i` when the message is exactly `w` bytes long and has the row's fixed bits. -/
def withWidth (w : Nat) (b : ByteString) (fixedBits : Bool) (i : Instr) : Except DecodeError Instr :=
  if b.length < w then .error .truncatedFrame
  else if w < b.length then .error .trailingBytes
  else if fixedBits then .ok i
  else .error .patternMismatch

/-- The decoder: total on any message, and it rejects by name. -/
def decode (fr : Frame) : Except DecodeError Instr :=
  let b := fr.bytes
  let b0 := byteAt b 0
  match fr.fmt with
  | .op => decodeOpFrame b
  | .pktIn => .ok (classify b)
  | .txSingle => decodeTxSingle b
  | .txFragment => decodeTxFragment b
  | .rtpHeader => withWidth 12 b true (.structRtpHeader (rtpUnpack b))
  | .nalHeaderH264 => withWidth 1 b true (.structNalHeaderH264 (nalF b0) (nalNri b0) (nalType b0))
  | .fuIndicatorH264 => withWidth 1 b (nalType b0 = Config.fuaType) (.structFuIndicatorH264 (nalF b0) (nalNri b0))
  | .fuHeaderH264 => withWidth 1 b (fuR b0 = 0) (.structFuHeaderH264 (fuS b0) (fuE b0) (nalType b0))
  | .nalHeaderH265 => withWidth 2 b true
      (.structNalHeaderH265 (nal265F b) (nal265Type b) (nal265LayerId b) (nal265Tid b))
  | .fuHeaderH265 => withWidth 1 b true (.structFuHeaderH265 (fuS b0) (fuE b0) (fu265Type b0))

/-! ### The encoder -/

/-- One field of at most eight bits as one operand byte. -/
def fieldByte {w : Nat} (v : BitVec w) : Byte := v.setWidth 8

/-- The message of format `op` with operation number `k` and operand bytes `b`. -/
def opFrame (k : Byte) (b : ByteString) : Frame := ⟨.op, k :: b⟩

/-- Bytes 0 to 11 of a `txpkt` pattern with marker byte `m`; the counter and SSRC positions are left 0 (log entry 11). -/
def txPattern (m : Byte) : ByteString := [0x80, m, 0, 0, 0, 0, 0, 0, 0, 0, 0, 0]

/-- The message of a well-formed instruction. -/
def encode (i : Instr) : Frame :=
  match i with
  | .rxTooShort p => ⟨.pktIn, p⟩
  | .rxSingleT01 h f nri rest => ⟨.pktIn, rtpPack h ++ nalByte f nri 1 :: rest⟩
  | .rxSingleT02 h f nri rest => ⟨.pktIn, rtpPack h ++ nalByte f nri 2 :: rest⟩
  | .rxSingleT03 h f nri rest => ⟨.pktIn, rtpPack h ++ nalByte f nri 3 :: rest⟩
  | .rxSingleT04 h f nri rest => ⟨.pktIn, rtpPack h ++ nalByte f nri 4 :: rest⟩
  | .rxSingleT05 h f nri rest => ⟨.pktIn, rtpPack h ++ nalByte f nri 5 :: rest⟩
  | .rxSingleT06 h f nri rest => ⟨.pktIn, rtpPack h ++ nalByte f nri 6 :: rest⟩
  | .rxSingleT07 h f nri rest => ⟨.pktIn, rtpPack h ++ nalByte f nri 7 :: rest⟩
  | .rxSingleT08 h f nri rest => ⟨.pktIn, rtpPack h ++ nalByte f nri 8 :: rest⟩
  | .rxSingleT09 h f nri rest => ⟨.pktIn, rtpPack h ++ nalByte f nri 9 :: rest⟩
  | .rxSingleT10 h f nri rest => ⟨.pktIn, rtpPack h ++ nalByte f nri 10 :: rest⟩
  | .rxSingleT11 h f nri rest => ⟨.pktIn, rtpPack h ++ nalByte f nri 11 :: rest⟩
  | .rxSingleT12 h f nri rest => ⟨.pktIn, rtpPack h ++ nalByte f nri 12 :: rest⟩
  | .rxSingleT13 h f nri rest => ⟨.pktIn, rtpPack h ++ nalByte f nri 13 :: rest⟩
  | .rxSingleT14 h f nri rest => ⟨.pktIn, rtpPack h ++ nalByte f nri 14 :: rest⟩
  | .rxSingleT15 h f nri rest => ⟨.pktIn, rtpPack h ++ nalByte f nri 15 :: rest⟩
  | .rxSingleT16 h f nri rest => ⟨.pktIn, rtpPack h ++ nalByte f nri 16 :: rest⟩
  | .rxSingleT17 h f nri rest => ⟨.pktIn, rtpPack h ++ nalByte f nri 17 :: rest⟩
  | .rxSingleT18 h f nri rest => ⟨.pktIn, rtpPack h ++ nalByte f nri 18 :: rest⟩
  | .rxSingleT19 h f nri rest => ⟨.pktIn, rtpPack h ++ nalByte f nri 19 :: rest⟩
  | .rxSingleT20 h f nri rest => ⟨.pktIn, rtpPack h ++ nalByte f nri 20 :: rest⟩
  | .rxSingleT21 h f nri rest => ⟨.pktIn, rtpPack h ++ nalByte f nri 21 :: rest⟩
  | .rxSingleT22 h f nri rest => ⟨.pktIn, rtpPack h ++ nalByte f nri 22 :: rest⟩
  | .rxSingleT23 h f nri rest => ⟨.pktIn, rtpPack h ++ nalByte f nri 23 :: rest⟩
  | .rxFuTrunc h f nri => ⟨.pktIn, rtpPack h ++ [fuIndicator f nri]⟩
  | .rxFuStart h f nri e r ty body => ⟨.pktIn, rtpPack h ++ fuIndicator f nri :: fuHeaderByte 1 e r ty :: body⟩
  | .rxFuMid h f nri r ty body => ⟨.pktIn, rtpPack h ++ fuIndicator f nri :: fuHeaderByte 0 0 r ty :: body⟩
  | .rxFuEnd h f nri r ty body => ⟨.pktIn, rtpPack h ++ fuIndicator f nri :: fuHeaderByte 0 1 r ty :: body⟩
  | .rxOtherT00 h f nri rest => ⟨.pktIn, rtpPack h ++ nalByte f nri 0 :: rest⟩
  | .rxOtherT24 h f nri rest => ⟨.pktIn, rtpPack h ++ nalByte f nri 24 :: rest⟩
  | .rxOtherT25 h f nri rest => ⟨.pktIn, rtpPack h ++ nalByte f nri 25 :: rest⟩
  | .rxOtherT26 h f nri rest => ⟨.pktIn, rtpPack h ++ nalByte f nri 26 :: rest⟩
  | .rxOtherT27 h f nri rest => ⟨.pktIn, rtpPack h ++ nalByte f nri 27 :: rest⟩
  | .rxOtherT29 h f nri rest => ⟨.pktIn, rtpPack h ++ nalByte f nri 29 :: rest⟩
  | .rxOtherT30 h f nri rest => ⟨.pktIn, rtpPack h ++ nalByte f nri 30 :: rest⟩
  | .rxOtherT31 h f nri rest => ⟨.pktIn, rtpPack h ++ nalByte f nri 31 :: rest⟩
  | .txSingle f nri ty rest => ⟨.txSingle, txPattern 0xE0 ++ nalByte f nri ty :: rest⟩
  | .txFuStart f nri ty slice => ⟨.txFragment, txPattern 0x60 ++ fuIndicator f nri :: fuHeader 1 0 ty :: slice⟩
  | .txFuMid f nri ty slice => ⟨.txFragment, txPattern 0x60 ++ fuIndicator f nri :: fuHeader 0 0 ty :: slice⟩
  | .txFuEnd f nri ty slice => ⟨.txFragment, txPattern 0xE0 ++ fuIndicator f nri :: fuHeader 0 1 ty :: slice⟩
  | .structRtpHeader h => ⟨.rtpHeader, rtpPack h⟩
  | .structNalHeaderH264 f nri ty => ⟨.nalHeaderH264, [nalByte f nri ty]⟩
  | .structFuIndicatorH264 f nri => ⟨.fuIndicatorH264, [fuIndicator f nri]⟩
  | .structFuHeaderH264 sb e ty => ⟨.fuHeaderH264, [fuHeader sb e ty]⟩
  | .structNalHeaderH265 f ty layerId tid => ⟨.nalHeaderH265, nal265Pack f ty layerId tid⟩
  | .structFuHeaderH265 sb e fuType => ⟨.fuHeaderH265, [fu265Byte sb e fuType]⟩
  | .rtpDec b => opFrame 0 b
  | .rtpEnc h => opFrame 1 ([fieldByte h.v, fieldByte h.p, fieldByte h.x, fieldByte h.cc, fieldByte h.m, fieldByte h.pt]
      ++ toBe16 h.seq ++ toBe32 h.ts ++ toBe32 h.ssrc)
  | .nalhDec b => opFrame 2 b
  | .nalhEnc f nri ty => opFrame 3 [fieldByte f, fieldByte nri, fieldByte ty]
  | .fuiDec b => opFrame 4 b
  | .fuiEnc f nri => opFrame 5 [fieldByte f, fieldByte nri]
  | .fuhDec b => opFrame 6 b
  | .fuhEnc sb e ty => opFrame 7 [fieldByte sb, fieldByte e, fieldByte ty]
  | .nalh265Dec b => opFrame 8 b
  | .nalh265Enc f ty layerId tid => opFrame 9 [fieldByte f, fieldByte ty, fieldByte layerId, fieldByte tid]
  | .fuh265Dec b => opFrame 10 b
  | .fuh265Enc sb e fuType => opFrame 11 [fieldByte sb, fieldByte e, fieldByte fuType]
  | .onPacket p => opFrame 12 p
  | .packetize u fps => opFrame 13 (toBe32 fps ++ u)
  | .seqNext => opFrame 14 []
  | .tsAdvance fps => opFrame 15 (toBe32 fps)
  | .rxReset maxNalu => opFrame 16 (natToBytes maxNalu)
  | .txReset maxPayload ssrc seq ts => opFrame 17 (toBe16 maxPayload ++ toBe32 ssrc ++ toBe16 seq ++ toBe32 ts)

/-! ### The table's numbering (log entry 9) -/

/-- How many zero operand bytes follow the operation index in a table word of operation `k`: its fixed operands; for a
decode the width of its structure; for `ON_PACKET` and `PACKETIZE` a string of 14 and of 6 bytes. -/
def zeroOperandBytes (k : Nat) : Nat :=
  match k with
  | 0 => 12 | 1 => 16 | 2 => 1 | 3 => 3 | 4 => 1 | 5 => 2 | 6 => 1 | 7 => 3 | 8 => 2 | 9 => 4 | 10 => 1 | 11 => 3
  | 12 => 14 | 13 => 10 | 14 => 0 | 15 => 4 | 16 => 4 | 17 => 12 | _ => 0

/-- The `n` bytes of a number whose bit 0 is bit 0 of the LAST byte, as the table numbers its patterns: byte 0 first, bit 7
of each byte first (R70, R71). -/
def wordBytes (n w : Nat) : ByteString := natToBytesFixed n w

/-- The bytes of an outbound packet pattern: byte 0 in the top bits when they spell its first two bytes (the table's "byte 0
first, bit 7 first"), else byte 0 in the lowest bits. -/
def packetWordBytes (n w : Nat) : ByteString :=
  if w / 256 ^ (n - 2) = 0x80E0 ∨ w / 256 ^ (n - 2) = 0x8060 then wordBytes n w else (wordBytes n w).reverse

/-- The message that a table word of `nbits` bits stands for. The table's patterns of one byte do not say their format:
an operation number comes first, then `RX_FU_TRUNC` (low five bits 28), then the FU header (bit 5 zero), then the
NAL header. A length that no row of the table has gives a message that spells nothing. -/
def tableFrame (nbits w : Nat) : Frame :=
  match (nbits + 7) / 8 with
  | 0 => ⟨.pktIn, []⟩
  | 1 =>
    if w % 32 < 18 then ⟨.op, wordBytes 1 w ++ List.replicate (zeroOperandBytes (w % 32)) 0⟩
    else if w % 32 = 28 then ⟨.pktIn, List.replicate 12 0 ++ wordBytes 1 w⟩
    else if w / 32 % 2 = 0 then ⟨.fuHeaderH264, wordBytes 1 w⟩
    else ⟨.nalHeaderH264, wordBytes 1 w⟩
  | 2 => ⟨.pktIn, List.replicate 12 0 ++ wordBytes 2 w⟩
  | 12 => ⟨.rtpHeader, wordBytes 12 w⟩
  | 13 => ⟨.txSingle, packetWordBytes 13 w⟩
  | 14 => ⟨.txFragment, packetWordBytes 14 w⟩
  | _ => ⟨.op, []⟩

/-- The instruction the decoder reads from a table word. -/
def decodeTableWord (nbits w : Nat) : Option Instr :=
  match decode (tableFrame nbits w) with
  | .ok i => some i
  | .error _ => none

end Sys2Proof
end

