-- ==== Sys2Proof/Machine/State.lean ====
section
/-! DEFINITION. The state of the block as plain data: one transmit instance, one receive instance, the codec's results,
what the host has sent, and the status of every operation that has ended (10_state.md R20 to R33). -/

namespace Sys2Proof.Machine

/-- A status an operation can end with (60_exceptions.md R160). -/
inductive Status where
  | ok
  | truncatedInput
  | packetTooShort
  | payloadTooSmall
  | unclassifiedNaluType
  | reassemblyOverflow
  | badFrameRate
  deriving DecidableEq, Repr

/-- The accumulator's bytes, sparse: pairs of address and byte, addresses strictly rising. An address that is not
listed has never been written and has no value (log entry 5). -/
abbrev Memory := List Host.Cell

/-- A receive instance (R20): the accumulator, its configuration, its output channels (R30), oldest message first, and the
status that each of its operations has given its caller (R31; log entry 19). -/
structure Rx where
  acc      : Memory
  accLen   : Nat
  maxNalu  : Nat
  naluOut  : List ByteString
  rxStatus : List Status
  rxDiag   : List RtpHeader
  ended    : List Status
  deriving DecidableEq, Repr

/-- A transmit instance (R20): the counters, its configuration, its output channels (R30), oldest message first, and the
status that each of its operations has given its caller (R31; log entry 19). -/
structure Tx where
  seq        : BitVec 16
  ts         : BitVec 32
  ssrc       : BitVec 32
  maxPayload : BitVec 16
  pktOut     : List ByteString
  txStatus   : List Status
  ended      : List Status
  deriving DecidableEq, Repr

/-- What a codec function gives its caller (R102, R193): bytes, a record, or the status of a failed decode. -/
inductive CodecResult where
  | bytes (b : ByteString)
  | rtp (h : RtpHeader)
  | nal (f : BitVec 1) (nri : BitVec 2) (ty : BitVec 5)
  | fuHeader (s e r : BitVec 1) (ty : BitVec 5)
  | nal265 (f : BitVec 1) (ty layerId : BitVec 6) (tid : BitVec 3)
  | fu265 (s e : BitVec 1) (fuType : BitVec 6)
  | raised (k : Status)
  deriving DecidableEq, Repr

/-- What the host has sent and the block has not yet taken (R193): a message to be decoded, or a write of the
configuration field `MAX_PAYLOAD` between operations (R29, R51). -/
inductive Request where
  | message (fr : Frame)
  | writeMaxPayload (v : BitVec 16)
  deriving DecidableEq, Repr

/-- The whole state: one receive instance, one transmit instance, what the codec has returned and the status each of its
functions has ended with (R31; log entries 14 and 19), the host's requests, and the micro-operations that the packetizer has issued
and that stand before any request (log entry 18: `PACKETIZE` runs its own inside its one step, so it is empty in every
run from reset). All oldest first. -/
structure State where
  rx         : Rx
  tx         : Tx
  codecOut   : List CodecResult
  codecEnded : List Status
  pending    : List Request
  micro      : List Frame
  deriving DecidableEq, Repr

/-- Why the machine stops. -/
inductive Fault where
  /-- An emission reads a byte of `ACC` that nothing has written. Raised by `RX_SINGLE`, `RX_FU_END` and `ON_PACKET`
  through `Rx.emitNalu`, in states that no run from a construction reaches. Safe (log entry 5). -/
  | accByteNeverWritten (addr : Nat)
  deriving DecidableEq, Repr

/-- Why an operation has no meaning. -/
inductive Refusal where
  /-- An instruction whose meaning is not written: raised by no arm of this model. Safe. -/
  | notModelled (mnemonic : String)
  /-- `PACKETIZE` under `MAX_PAYLOAD = 0`, an illegal configuration (R184, D4, U5). Raised by `execPacketize`. Safe. -/
  | illegalMaxPayload
  /-- A message that spells no operation (R72, R102). Raised by `runFrame`. Safe. -/
  | badFrame (e : DecodeError)
  /-- A micro-operation of the packetizer sent by the host, which cannot issue it (43_sequence.md, R153, R171), or an operation
  of the host among the packetizer's micro-operations. Raised by `runFrame`. Safe. -/
  | wrongIssuer
  deriving DecidableEq, Repr

/-- The outcome of an operation on one instance or on the whole state. -/
abbrev Result (α : Type) := Host.Outcome α Fault Refusal

/-- A receive instance right after construction (R33, R180). -/
def Rx.reset : Rx where
  acc := []
  accLen := 0
  maxNalu := Config.maxNaluReset
  naluOut := []
  rxStatus := []
  rxDiag := []
  ended := []

/-- A transmit instance right after construction (R33, R181). -/
def Tx.reset : Tx where
  seq := Config.seqInit
  ts := Config.tsInit
  ssrc := Config.ssrcReset
  maxPayload := Config.maxPayloadReset
  pktOut := []
  txStatus := []
  ended := []

/-- The machine right after reset: both instances just constructed, nothing emitted, nothing asked (R33; log
entries 1 to 4 for the configuration and the counters). -/
def State.reset : State where
  rx := Rx.reset
  tx := Tx.reset
  codecOut := []
  codecEnded := []
  pending := []
  micro := []

end Sys2Proof.Machine
end

