-- ==== Sys2Proof/Machine/Flags.lean ====
section
/-! DEFINITION. The block has no flag register, condition code or sticky bit: "flags written: none" in every rule (R31).
What stands in their place is the one status that each operation ends with (R31): its number (R160), and the ending of an
operation on each instance. An `ON_PACKET` and a `PACKETIZE` also put it on the instance's status channel (R30). -/

namespace Sys2Proof.Machine

/-- The code of a status (R160, D22). -/
def Status.code (k : Status) : Nat :=
  match k with
  | .ok => 0
  | .truncatedInput => 1
  | .packetTooShort => 2
  | .payloadTooSmall => 3
  | .unclassifiedNaluType => 4
  | .reassemblyOverflow => 5
  | .badFrameRate => 6

/-- An operation of a receive instance ends with status `k`, the output of the operation (R31). -/
def Rx.done (k : Status) (r : Rx) : Rx := { r with ended := r.ended ++ [k] }

/-- An `ON_PACKET` ends with status `k`: the status goes out on `rx_status`, nothing is saved or switched, and the
instance is ready for the next operation (R30, R166, R169). -/
def Rx.finish (k : Status) (r : Rx) : Rx := { r.done k with rxStatus := r.rxStatus ++ [k] }

/-- An operation of a transmit instance ends with status `k`, the output of the operation (R31). -/
def Tx.done (k : Status) (t : Tx) : Tx := { t with ended := t.ended ++ [k] }

/-- A `PACKETIZE` ends with status `k`, which goes out on `tx_status` (R30, R166, R169). -/
def Tx.finish (k : Status) (t : Tx) : Tx := { t.done k with txStatus := t.txStatus ++ [k] }

end Sys2Proof.Machine
end

