-- ==== Sys2Proof/Machine/Ops.lean ====
section
/-! DEFINITION. The named operations over memory, the instances and their channels, out of which every meaning is made:
the accumulator's bytes, emission, raising an error, the RTP packet multiplexer. -/

namespace Sys2Proof.Machine

/-! ### The accumulator's bytes (20_memory.md R40, R41) -/

/-- The canonical form: addresses strictly rising. -/
abbrev Memory.wf (m : Memory) : Prop := (m.map Prod.fst).Pairwise (· < ·)

/-- The byte at address `a`, if one was ever written there (log entry 5). -/
def Memory.read (m : Memory) (a : Nat) : Option Byte :=
  match m with
  | [] => none
  | (k, v) :: rest => if k = a then some v else Memory.read rest a

/-- Writes one byte and keeps the addresses rising. -/
def Memory.write (m : Memory) (a : Nat) (v : Byte) : Memory :=
  match m with
  | [] => [(a, v)]
  | (k, w) :: rest =>
    if a < k then (a, v) :: (k, w) :: rest
    else if a = k then (a, v) :: rest
    else (k, w) :: Memory.write rest a v

/-- `MemWrite(ACC:a, len(b), b)` (R9). -/
def Memory.writeBytes (m : Memory) (a : Nat) (b : ByteString) : Memory :=
  match b with
  | [] => m
  | v :: rest => Memory.writeBytes (m.write a v) (a + 1) rest

/-- `MemRead(ACC:a, n)` (R9): the `n` bytes from `a`, or the fault of the first that was never written. -/
def Memory.readBytes (m : Memory) (a : Nat) (n : Nat) : Except Fault ByteString :=
  match n with
  | 0 => .ok []
  | n + 1 =>
    match m.read a with
    | none => .error (.accByteNeverWritten a)
    | some v =>
      match Memory.readBytes m (a + 1) n with
      | .ok b => .ok (v :: b)
      | .error e => .error e

/-- Keeps the bytes of an array of `n` bytes: the addresses below `n` (log entry 6). -/
def Memory.below (m : Memory) (n : Nat) : Memory := m.filter (fun c => decide (c.1 < n))

/-! ### Outcomes -/

/-- Goes on with `f` when an outcome is a next state. -/
def andThen {α β : Type} (o : Result α) (f : α → Result β) : Result β :=
  match o with
  | .next a => f a
  | .fault e => .fault e
  | .refused e => .refused e

/-! ### The receive instance -/

/-- The receive phase (R23). -/
inductive Phase where
  | idle
  | assembling
  deriving DecidableEq, Repr

/-- The phase is a function of `ACC_LEN` (R23). -/
def Rx.phase (r : Rx) : Phase := if r.accLen = 0 then .idle else .assembling

/-- `ACC_LEN <- n`. -/
def Rx.setAccLen (n : Nat) (r : Rx) : Rx := { r with accLen := n }

/-- `MemWrite(ACC:a, len(b), b)`. -/
def Rx.writeAcc (a : Nat) (b : ByteString) (r : Rx) : Rx := { r with acc := r.acc.writeBytes a b }

/-- Puts a decoded RTP header on `rx_diag` (R112). -/
def Rx.pushDiag (h : RtpHeader) (r : Rx) : Rx := { r with rxDiag := r.rxDiag ++ [h] }

/-- Hands a unit to the NAL-unit sink, which always accepts (R30). -/
def Rx.pushNalu (u : ByteString) (r : Rx) : Rx := { r with naluOut := r.naluOut ++ [u] }

/-- `emit_nalu(ACC[0:ACC_LEN])` (R9, R187: the value as it is at this moment). -/
def Rx.emitNalu (r : Rx) : Result Rx :=
  match r.acc.readBytes 0 r.accLen with
  | .ok u => .next (r.pushNalu u)
  | .error e => .fault e

/-- TAKING AN ERROR in `ON_PACKET` (R160, R169): the operation ends with status `k` and nothing else happens. There
is no handler, so nothing is saved and there is nothing to return from. -/
def Rx.raise (k : Status) (r : Rx) : Result Rx := .next (r.finish k)

/-- `return OK` in `ON_PACKET`. -/
def Rx.returnOk (r : Rx) : Result Rx := .next (r.finish .ok)

/-- The overflow guard fires (R120, R165): the accumulator is emptied and the operation ends. -/
def Rx.overflow (r : Rx) : Result Rx := (r.setAccLen 0).raise .reassemblyOverflow

/-- Appends a fragment body at `ACC_LEN` (R117, R118). -/
def Rx.append (body : ByteString) (r : Rx) : Rx :=
  (r.writeAcc r.accLen body).setAccLen (r.accLen + body.length)

/-- Writes the start code, a NAL header byte and payload bytes from address 0 (R114, R116; layout R41). -/
def Rx.startUnit (hdr : Byte) (payload : ByteString) (r : Rx) : Rx :=
  (((r.writeAcc 0 Config.startCode).writeAcc 4 [hdr]).writeAcc 5 payload).setAccLen (5 + payload.length)

/-- Emits the accumulator, empties it and returns `OK` (R114, R118). -/
def Rx.emitAndEmpty (r : Rx) : Result Rx :=
  andThen r.emitNalu (fun r' => (r'.setAccLen 0).returnOk)

/-- `RX_SINGLE` (R114): `hdr` is `p[12]` and `rest` is `p[13:n]`, so `n - 8` is `5 + len(rest)`. -/
def Rx.single (hdr : Byte) (rest : ByteString) (r : Rx) : Result Rx :=
  let r := r.setAccLen 0
  if r.maxNalu < 5 + rest.length then r.overflow
  else (r.startUnit hdr rest).emitAndEmpty

/-- `RX_FU_START` (R116): `b0` is `p[12]`, `fh` is `p[13]`, `body` is `p[14:n]`. -/
def Rx.fuStart (b0 fh : Byte) (body : ByteString) (r : Rx) : Result Rx :=
  let r := r.setAccLen 0
  if r.maxNalu < 5 + body.length then r.overflow
  else (r.startUnit (synthesisedHeader b0 fh) body).returnOk

/-- `RX_FU_MID` (R117). -/
def Rx.fuMid (body : ByteString) (r : Rx) : Result Rx :=
  if r.accLen = 0 then r.returnOk
  else if r.maxNalu < r.accLen + body.length then r.overflow
  else (r.append body).returnOk

/-- `RX_FU_END` (R118). -/
def Rx.fuEnd (body : ByteString) (r : Rx) : Result Rx :=
  if r.accLen = 0 then r.returnOk
  else if r.maxNalu < r.accLen + body.length then r.overflow
  else (r.append body).emitAndEmpty

/-- `RX_OTHER` (R119). -/
def Rx.other (r : Rx) : Result Rx := r.raise .unclassifiedNaluType

/-- `RX_FU_TRUNC` (R115). -/
def Rx.fuTrunc (r : Rx) : Result Rx := r.raise .truncatedInput

/-! ### The transmit instance -/

/-- `SEQ <- v`. -/
def Tx.setSeq (v : BitVec 16) (t : Tx) : Tx := { t with seq := v }

/-- `TS <- v`. -/
def Tx.setTs (v : BitVec 32) (t : Tx) : Tx := { t with ts := v }

/-- `MAX_PAYLOAD <- v`. -/
def Tx.setMaxPayload (v : BitVec 16) (t : Tx) : Tx := { t with maxPayload := v }

/-- `SSRC <- v`. -/
def Tx.setSsrc (v : BitVec 32) (t : Tx) : Tx := { t with ssrc := v }

/-- `emit_pkt(b)`: the transport sink always accepts (R9, R30). -/
def Tx.pushPkt (b : ByteString) (t : Tx) : Tx := { t with pktOut := t.pktOut ++ [b] }

/-- TAKING AN ERROR in `PACKETIZE` (R160, R169). -/
def Tx.raise (k : Status) (t : Tx) : Result Tx := .next (t.finish k)

/-- `return OK` in `PACKETIZE`. -/
def Tx.returnOk (t : Tx) : Result Tx := .next (t.finish .ok)

/-- `SEQ_NEXT` (R150): modulo 65536. -/
def Tx.seqNext (t : Tx) : Tx := t.setSeq (t.seq + 1)

/-- `90000 div fps` (R151, R155). -/
def tick (fps : BitVec 32) : Nat := Config.clockRate / fps.toNat

/-- `TS_ADVANCE(fps)` (R151): modulo 2^32. Only called with `fps` not 0. -/
def Tx.tsAdvance (fps : BitVec 32) (t : Tx) : Tx := t.setTs (t.ts + BitVec.ofNat 32 (tick fps))

/-- The RTP header of the next packet with marker `m` (R132). -/
def Tx.header (m : BitVec 1) (t : Tx) : ByteString :=
  rtpPack { v := Config.version, p := 0, x := 0, cc := 0, m := m, pt := Config.payloadType,
            seq := t.seq, ts := t.ts, ssrc := t.ssrc }

/-- The output stage for a single packet (R135, R139): `SEQ_NEXT`, then the header with `M = 1` and `body`. -/
def Tx.emitSingle (body : ByteString) (t : Tx) : Tx :=
  let t := t.seqNext
  t.pushPkt (t.header 1 ++ body)

/-- The output stage for one fragment (R137, R139): `SEQ_NEXT`, then the header with `M = E`, the FU indicator, the FU
header and the slice. `hdr` is `body[0]`. -/
def Tx.emitFragment (hdr : Byte) (s e : BitVec 1) (slice : ByteString) (t : Tx) : Tx :=
  let t := t.seqNext
  t.pushPkt (t.header e ++ [fuIndicator (nalF hdr) (nalNri hdr), fuHeader s e (nalType hdr)] ++ slice)

/-- `fragCount` (R136). -/
def fragCount (p maxPayload : Nat) : Nat := (p + maxPayload - 1) / maxPayload

/-- `lastFragSize` (R136). -/
def lastFragSize (p maxPayload : Nat) : Nat := if p % maxPayload = 0 then maxPayload else p % maxPayload

/-- Fragment `i` of `body` (R137). -/
def Tx.fragment (body : ByteString) (maxPayload i : Nat) (t : Tx) : Tx :=
  let p := body.length - 1
  let count := fragCount p maxPayload
  let size := if i < count - 1 then maxPayload else lastFragSize p maxPayload
  let start : BitVec 1 := if i = 0 then 1 else 0
  let last : BitVec 1 := if i = count - 1 then 1 else 0
  t.emitFragment (byteAt body 0) start last (slice body (1 + i * maxPayload) (1 + i * maxPayload + size))

/-- The fragment loop (R137): fragments 0 to `fragCount - 1` in that order. -/
def Tx.fragmentAll (body : ByteString) (maxPayload : Nat) (t : Tx) : Tx :=
  (List.range (fragCount (body.length - 1) maxPayload)).foldl (fun t i => t.fragment body maxPayload i) t

/-! ### The whole state -/

/-- An operation of the receive instance, seen on the whole state: it reaches nothing else (R40). -/
def State.onRx (f : Rx → Result Rx) (s : State) : Result State :=
  andThen (f s.rx) (fun r => .next { s with rx := r })

/-- An operation of the transmit instance, seen on the whole state: it reaches nothing else (R40). -/
def State.onTx (f : Tx → Result Tx) (s : State) : Result State :=
  andThen (f s.tx) (fun t => .next { s with tx := t })

/-- A codec function gives `c` to its caller and ends with status `k`; no state of any instance changes (R31, R102; log entries
14 and 19). -/
def State.giveCodec (c : CodecResult) (k : Status) (s : State) : State :=
  { s with codecOut := s.codecOut ++ [c], codecEnded := s.codecEnded ++ [k] }

/-- A decode of a structure `w` bytes wide: the record and `OK`, or `TruncatedInput` when fewer bytes are there (R102, R160,
R161). -/
def decodeStructure (w : Nat) (record : ByteString → CodecResult) (b : ByteString) (s : State) : Result State :=
  if b.length < w then .next (s.giveCodec (.raised .truncatedInput) .truncatedInput)
  else .next (s.giveCodec (record b) .ok)

/-- An encode gives the structure's bytes and cannot fail (R102): it ends with `OK`. -/
def encodeStructure (b : ByteString) (s : State) : Result State := .next (s.giveCodec (.bytes b) .ok)

end Sys2Proof.Machine
end

