-- ==== Sys2Proof/Machine/Codec.lean ====
section
/-! DEFINITION. The header codec: the twelve functions of 40_codec.md R90 to R101, and the six wire structures as the rows
of format `struct` (30_encoding.md R61 to R66; log entry 13). -/

namespace Sys2Proof.Machine

/-- `RTP_DEC` (R90). -/
def execRtpDec (b : ByteString) (s : State) : Result State :=
  decodeStructure Config.rtpHdrLen (fun b => .rtp (rtpUnpack b)) b s

/-- `RTP_ENC` (R91). -/
def execRtpEnc (h : RtpHeader) (s : State) : Result State := encodeStructure (rtpPack h) s

/-- `NALH_DEC` (R92). -/
def execNalhDec (b : ByteString) (s : State) : Result State :=
  decodeStructure 1 (fun b => .nal (nalF (byteAt b 0)) (nalNri (byteAt b 0)) (nalType (byteAt b 0))) b s

/-- `NALH_ENC` (R93). -/
def execNalhEnc (f : BitVec 1) (nri : BitVec 2) (ty : BitVec 5) (s : State) : Result State :=
  encodeStructure [nalByte f nri ty] s

/-- `FUI_DEC` (R94): the layout of the NAL header; the type is not checked. -/
def execFuiDec (b : ByteString) (s : State) : Result State :=
  decodeStructure 1 (fun b => .nal (nalF (byteAt b 0)) (nalNri (byteAt b 0)) (nalType (byteAt b 0))) b s

/-- `FUI_ENC` (R95). -/
def execFuiEnc (f : BitVec 1) (nri : BitVec 2) (s : State) : Result State := encodeStructure [fuIndicator f nri] s

/-- `FUH_DEC` (R96): `R` is returned as it stands. -/
def execFuhDec (b : ByteString) (s : State) : Result State :=
  decodeStructure 1
    (fun b => .fuHeader (fuS (byteAt b 0)) (fuE (byteAt b 0)) (fuR (byteAt b 0)) (nalType (byteAt b 0))) b s

/-- `FUH_ENC` (R97): bit 5 is 0. -/
def execFuhEnc (sb e : BitVec 1) (ty : BitVec 5) (s : State) : Result State := encodeStructure [fuHeader sb e ty] s

/-- `NALH265_DEC` (R98). -/
def execNalh265Dec (b : ByteString) (s : State) : Result State :=
  decodeStructure 2 (fun b => .nal265 (nal265F b) (nal265Type b) (nal265LayerId b) (nal265Tid b)) b s

/-- `NALH265_ENC` (R99). -/
def execNalh265Enc (f : BitVec 1) (ty layerId : BitVec 6) (tid : BitVec 3) (s : State) : Result State :=
  encodeStructure (nal265Pack f ty layerId tid) s

/-- `FUH265_DEC` (R100). -/
def execFuh265Dec (b : ByteString) (s : State) : Result State :=
  decodeStructure 1 (fun b => .fu265 (fuS (byteAt b 0)) (fuE (byteAt b 0)) (fu265Type (byteAt b 0))) b s

/-- `FUH265_ENC` (R101). -/
def execFuh265Enc (sb e : BitVec 1) (fuType : BitVec 6) (s : State) : Result State :=
  encodeStructure [fu265Byte sb e fuType] s

/-! ### The wire structures laid out (R61 to R66) -/

/-- The RTP header laid out (R61). -/
def execStructRtpHeader (h : RtpHeader) (s : State) : Result State := encodeStructure (rtpPack h) s

/-- The H.264 NAL header laid out (R62). -/
def execStructNalHeaderH264 (f : BitVec 1) (nri : BitVec 2) (ty : BitVec 5) (s : State) : Result State :=
  encodeStructure [nalByte f nri ty] s

/-- The FU indicator laid out: the type is always 28 (R63). -/
def execStructFuIndicatorH264 (f : BitVec 1) (nri : BitVec 2) (s : State) : Result State :=
  encodeStructure [fuIndicator f nri] s

/-- The FU header laid out: `R` is 0 (R64). -/
def execStructFuHeaderH264 (sb e : BitVec 1) (ty : BitVec 5) (s : State) : Result State :=
  encodeStructure [fuHeader sb e ty] s

/-- The H.265 NAL header laid out (R65). -/
def execStructNalHeaderH265 (f : BitVec 1) (ty layerId : BitVec 6) (tid : BitVec 3) (s : State) : Result State :=
  encodeStructure (nal265Pack f ty layerId tid) s

/-- The H.265 FU header laid out (R66). -/
def execStructFuHeaderH265 (sb e : BitVec 1) (fuType : BitVec 6) (s : State) : Result State :=
  encodeStructure [fu265Byte sb e fuType] s

end Sys2Proof.Machine
end

