-- ==== Sys2Proof/Machine/Depacketizer.lean ====
section
/-! DEFINITION. The depacketizer: `ON_PACKET` (41_depacketizer.md R110 to R120), and each class of an inbound packet as an
instruction of its own (30_encoding.md R70). A class's meaning is its arm of `ON_PACKET` on the packet's fields: it
puts the header on `rx_diag` (R112) and runs the arm (log entry 10). -/

namespace Sys2Proof.Machine

/-- `ON_PACKET(p)` on the receive instance: the steps of R110 in their order. -/
def Rx.onPacket (p : ByteString) (r : Rx) : Result Rx :=
  if p.length < Config.minRxLen then r.raise .packetTooShort
  else
    let r := r.pushDiag (rtpUnpack p)
    let b0 := byteAt p 12
    let t := nalType b0
    if Config.singleMin ≤ t.toNat ∧ t.toNat ≤ Config.singleMax then r.single b0 (p.drop 13)
    else if t = Config.fuaType then
      if p.length < 14 then r.fuTrunc
      else
        let fh := byteAt p 13
        if fuS fh = 1 then r.fuStart b0 fh (p.drop 14)
        else if fuE fh = 0 then r.fuMid (p.drop 14)
        else r.fuEnd (p.drop 14)
    else r.other

/-- `ON_PACKET` (R110). -/
def execOnPacket (p : ByteString) (s : State) : Result State := s.onRx (fun r => r.onPacket p)

/-- A packet shorter than 13 bytes: nothing on `rx_diag`, no byte of it read (R111). -/
def execRxTooShort (_p : ByteString) (s : State) : Result State := s.onRx (fun r => r.raise .packetTooShort)

/-! ### `RX_SINGLE`, types 1 to 23 (R114) -/

/-- A single-unit packet of type `ty`: shared by the 23 rows. -/
def rxSingle (ty : BitVec 5) (h : RtpHeader) (f : BitVec 1) (nri : BitVec 2) (rest : ByteString) (s : State) :
    Result State :=
  s.onRx (fun r => (r.pushDiag h).single (nalByte f nri ty) rest)

/-- `RX_SINGLE_T01` (R114). -/
def execRxSingleT01 (h : RtpHeader) (f : BitVec 1) (nri : BitVec 2) (rest : ByteString) (s : State) : Result State :=
  rxSingle 1 h f nri rest s

/-- `RX_SINGLE_T02` (R114). -/
def execRxSingleT02 (h : RtpHeader) (f : BitVec 1) (nri : BitVec 2) (rest : ByteString) (s : State) : Result State :=
  rxSingle 2 h f nri rest s

/-- `RX_SINGLE_T03` (R114). -/
def execRxSingleT03 (h : RtpHeader) (f : BitVec 1) (nri : BitVec 2) (rest : ByteString) (s : State) : Result State :=
  rxSingle 3 h f nri rest s

/-- `RX_SINGLE_T04` (R114). -/
def execRxSingleT04 (h : RtpHeader) (f : BitVec 1) (nri : BitVec 2) (rest : ByteString) (s : State) : Result State :=
  rxSingle 4 h f nri rest s

/-- `RX_SINGLE_T05` (R114). -/
def execRxSingleT05 (h : RtpHeader) (f : BitVec 1) (nri : BitVec 2) (rest : ByteString) (s : State) : Result State :=
  rxSingle 5 h f nri rest s

/-- `RX_SINGLE_T06` (R114). -/
def execRxSingleT06 (h : RtpHeader) (f : BitVec 1) (nri : BitVec 2) (rest : ByteString) (s : State) : Result State :=
  rxSingle 6 h f nri rest s

/-- `RX_SINGLE_T07` (R114). -/
def execRxSingleT07 (h : RtpHeader) (f : BitVec 1) (nri : BitVec 2) (rest : ByteString) (s : State) : Result State :=
  rxSingle 7 h f nri rest s

/-- `RX_SINGLE_T08` (R114). -/
def execRxSingleT08 (h : RtpHeader) (f : BitVec 1) (nri : BitVec 2) (rest : ByteString) (s : State) : Result State :=
  rxSingle 8 h f nri rest s

/-- `RX_SINGLE_T09` (R114). -/
def execRxSingleT09 (h : RtpHeader) (f : BitVec 1) (nri : BitVec 2) (rest : ByteString) (s : State) : Result State :=
  rxSingle 9 h f nri rest s

/-- `RX_SINGLE_T10` (R114). -/
def execRxSingleT10 (h : RtpHeader) (f : BitVec 1) (nri : BitVec 2) (rest : ByteString) (s : State) : Result State :=
  rxSingle 10 h f nri rest s

/-- `RX_SINGLE_T11` (R114). -/
def execRxSingleT11 (h : RtpHeader) (f : BitVec 1) (nri : BitVec 2) (rest : ByteString) (s : State) : Result State :=
  rxSingle 11 h f nri rest s

/-- `RX_SINGLE_T12` (R114). -/
def execRxSingleT12 (h : RtpHeader) (f : BitVec 1) (nri : BitVec 2) (rest : ByteString) (s : State) : Result State :=
  rxSingle 12 h f nri rest s

/-- `RX_SINGLE_T13` (R114). -/
def execRxSingleT13 (h : RtpHeader) (f : BitVec 1) (nri : BitVec 2) (rest : ByteString) (s : State) : Result State :=
  rxSingle 13 h f nri rest s

/-- `RX_SINGLE_T14` (R114). -/
def execRxSingleT14 (h : RtpHeader) (f : BitVec 1) (nri : BitVec 2) (rest : ByteString) (s : State) : Result State :=
  rxSingle 14 h f nri rest s

/-- `RX_SINGLE_T15` (R114). -/
def execRxSingleT15 (h : RtpHeader) (f : BitVec 1) (nri : BitVec 2) (rest : ByteString) (s : State) : Result State :=
  rxSingle 15 h f nri rest s

/-- `RX_SINGLE_T16` (R114). -/
def execRxSingleT16 (h : RtpHeader) (f : BitVec 1) (nri : BitVec 2) (rest : ByteString) (s : State) : Result State :=
  rxSingle 16 h f nri rest s

/-- `RX_SINGLE_T17` (R114). -/
def execRxSingleT17 (h : RtpHeader) (f : BitVec 1) (nri : BitVec 2) (rest : ByteString) (s : State) : Result State :=
  rxSingle 17 h f nri rest s

/-- `RX_SINGLE_T18` (R114). -/
def execRxSingleT18 (h : RtpHeader) (f : BitVec 1) (nri : BitVec 2) (rest : ByteString) (s : State) : Result State :=
  rxSingle 18 h f nri rest s

/-- `RX_SINGLE_T19` (R114). -/
def execRxSingleT19 (h : RtpHeader) (f : BitVec 1) (nri : BitVec 2) (rest : ByteString) (s : State) : Result State :=
  rxSingle 19 h f nri rest s

/-- `RX_SINGLE_T20` (R114). -/
def execRxSingleT20 (h : RtpHeader) (f : BitVec 1) (nri : BitVec 2) (rest : ByteString) (s : State) : Result State :=
  rxSingle 20 h f nri rest s

/-- `RX_SINGLE_T21` (R114). -/
def execRxSingleT21 (h : RtpHeader) (f : BitVec 1) (nri : BitVec 2) (rest : ByteString) (s : State) : Result State :=
  rxSingle 21 h f nri rest s

/-- `RX_SINGLE_T22` (R114). -/
def execRxSingleT22 (h : RtpHeader) (f : BitVec 1) (nri : BitVec 2) (rest : ByteString) (s : State) : Result State :=
  rxSingle 22 h f nri rest s

/-- `RX_SINGLE_T23` (R114). -/
def execRxSingleT23 (h : RtpHeader) (f : BitVec 1) (nri : BitVec 2) (rest : ByteString) (s : State) : Result State :=
  rxSingle 23 h f nri rest s

/-! ### FU-A packets (R115 to R118) -/

/-- `RX_FU_TRUNC` (R115). -/
def execRxFuTrunc (h : RtpHeader) (_f : BitVec 1) (_nri : BitVec 2) (s : State) : Result State :=
  s.onRx (fun r => (r.pushDiag h).fuTrunc)

/-- `RX_FU_START` (R116); `E` and `R` are not looked at (R73, R77). -/
def execRxFuStart (h : RtpHeader) (f : BitVec 1) (nri : BitVec 2) (e r : BitVec 1) (ty : BitVec 5) (body : ByteString)
    (s : State) : Result State :=
  s.onRx (fun x => (x.pushDiag h).fuStart (fuIndicator f nri) (fuHeaderByte 1 e r ty) body)

/-- `RX_FU_MID` (R117): no field of `payload[0]` or `payload[1]` is compared with the unit in the accumulator. -/
def execRxFuMid (h : RtpHeader) (_f : BitVec 1) (_nri : BitVec 2) (_r : BitVec 1) (_ty : BitVec 5) (body : ByteString)
    (s : State) : Result State :=
  s.onRx (fun x => (x.pushDiag h).fuMid body)

/-- `RX_FU_END` (R118): no field of `payload[0]` or `payload[1]` is compared with the unit in the accumulator. -/
def execRxFuEnd (h : RtpHeader) (_f : BitVec 1) (_nri : BitVec 2) (_r : BitVec 1) (_ty : BitVec 5) (body : ByteString)
    (s : State) : Result State :=
  s.onRx (fun x => (x.pushDiag h).fuEnd body)

/-! ### `RX_OTHER`, types 0, 24 to 27, 29 to 31 (R119) -/

/-- A packet of a type the block does not handle: shared by the eight rows. -/
def rxOther (h : RtpHeader) (s : State) : Result State := s.onRx (fun r => (r.pushDiag h).other)

/-- `RX_OTHER_T00` (R119). -/
def execRxOtherT00 (h : RtpHeader) (_f : BitVec 1) (_nri : BitVec 2) (_rest : ByteString) (s : State) : Result State :=
  rxOther h s

/-- `RX_OTHER_T24` (R119). -/
def execRxOtherT24 (h : RtpHeader) (_f : BitVec 1) (_nri : BitVec 2) (_rest : ByteString) (s : State) : Result State :=
  rxOther h s

/-- `RX_OTHER_T25` (R119). -/
def execRxOtherT25 (h : RtpHeader) (_f : BitVec 1) (_nri : BitVec 2) (_rest : ByteString) (s : State) : Result State :=
  rxOther h s

/-- `RX_OTHER_T26` (R119). -/
def execRxOtherT26 (h : RtpHeader) (_f : BitVec 1) (_nri : BitVec 2) (_rest : ByteString) (s : State) : Result State :=
  rxOther h s

/-- `RX_OTHER_T27` (R119). -/
def execRxOtherT27 (h : RtpHeader) (_f : BitVec 1) (_nri : BitVec 2) (_rest : ByteString) (s : State) : Result State :=
  rxOther h s

/-- `RX_OTHER_T29` (R119). -/
def execRxOtherT29 (h : RtpHeader) (_f : BitVec 1) (_nri : BitVec 2) (_rest : ByteString) (s : State) : Result State :=
  rxOther h s

/-- `RX_OTHER_T30` (R119). -/
def execRxOtherT30 (h : RtpHeader) (_f : BitVec 1) (_nri : BitVec 2) (_rest : ByteString) (s : State) : Result State :=
  rxOther h s

/-- `RX_OTHER_T31` (R119). -/
def execRxOtherT31 (h : RtpHeader) (_f : BitVec 1) (_nri : BitVec 2) (_rest : ByteString) (s : State) : Result State :=
  rxOther h s

end Sys2Proof.Machine
end

