-- ==== Sys2Proof/Machine/Packetizer.lean ====
section
/-! DEFINITION. The packetizer: `PACKETIZE` (42_packetizer.md R130 to R139) and the four outbound packet kinds it builds
(30_encoding.md R71; log entry 11). A packet kind as an instruction of its own ends with `OK` (R31). `PACKETIZE` builds
one with `1 <= k <= MAX_PAYLOAD` bytes after its pattern (R68, R133, R136); issued by itself with an empty slice, a longer
one, or out of the loop's order (R137), a kind emits its packet all the same (DESIGN CHOICE, log entry 11). -/

namespace Sys2Proof.Machine

/-- The accepted part of `PACKETIZE` (R130): `TS_ADVANCE`, then one packet or the fragment loop. -/
def Tx.sendUnit (u : ByteString) (fps : BitVec 32) (t : Tx) : Tx :=
  let body := u.drop Config.startCodeLen
  let maxPayload := t.maxPayload.toNat
  let t := t.tsAdvance fps
  if body.length - 1 ≤ maxPayload then t.emitSingle body else t.fragmentAll body maxPayload

/-- `PACKETIZE(u, fps)` on the transmit instance (R130), refused under `MAX_PAYLOAD = 0` (R184). -/
def Tx.packetize (u : ByteString) (fps : BitVec 32) (t : Tx) : Result Tx :=
  if t.maxPayload = 0 then .refused .illegalMaxPayload
  else if u.length < Config.minTxLen then t.raise .payloadTooSmall
  else if fps = 0 then t.raise .badFrameRate
  else (t.sendUnit u fps).returnOk

/-- `PACKETIZE` (R130). -/
def execPacketize (u : ByteString) (fps : BitVec 32) (s : State) : Result State := s.onTx (fun t => t.packetize u fps)

/-- `TX_SINGLE` (R135): `body` is the header byte and `rest`. DESIGN CHOICE (log entry 11): it emits the packet also with
`rest` empty or longer than `MAX_PAYLOAD`, which `PACKETIZE` never builds (R133). -/
def execTxSingle (f : BitVec 1) (nri : BitVec 2) (ty : BitVec 5) (rest : ByteString) (s : State) : Result State :=
  s.onTx (fun t => .next ((t.emitSingle (nalByte f nri ty :: rest)).done .ok))

/-- `TX_FU_START` (R137): `S = 1`, `E = 0`, `M = 0`.DESIGN CHOICE (log entry 11): it emits the packet also with a slice of another
length than `MAX_PAYLOAD`, 0 among them, which `PACKETIZE` never builds (R68, R136). -/
def execTxFuStart (f : BitVec 1) (nri : BitVec 2) (ty : BitVec 5) (slice : ByteString) (s : State) : Result State :=
  s.onTx (fun t => .next ((t.emitFragment (nalByte f nri ty) 1 0 slice).done .ok))

/-- `TX_FU_MID` (R137): `S = 0`, `E = 0`, `M = 0`.DESIGN CHOICE (log entry 11): it emits the packet also with a slice of another
length than `MAX_PAYLOAD`, 0 among them, which `PACKETIZE` never builds (R68, R136). -/
def execTxFuMid (f : BitVec 1) (nri : BitVec 2) (ty : BitVec 5) (slice : ByteString) (s : State) : Result State :=
  s.onTx (fun t => .next ((t.emitFragment (nalByte f nri ty) 0 0 slice).done .ok))

/-- `TX_FU_END` (R137): `S = 0`, `E = 1`, `M = 1`.DESIGN CHOICE (log entry 11): it emits the packet also with a slice that is
empty or longer than `MAX_PAYLOAD`, which `PACKETIZE` never builds (R68, R136). -/
def execTxFuEnd (f : BitVec 1) (nri : BitVec 2) (ty : BitVec 5) (slice : ByteString) (s : State) : Result State :=
  s.onTx (fun t => .next ((t.emitFragment (nalByte f nri ty) 0 1 slice).done .ok))

end Sys2Proof.Machine
end

