-- ==== Sys2Proof/Machine/Reset.lean ====
section
/-! DEFINITION. `RX_RESET` and `TX_RESET` (70_reset_and_hazards.md R180, R181), each ending with `OK` (R31, R160), and the host's write of `MAX_PAYLOAD`
between operations (R29, R188). -/

namespace Sys2Proof.Machine

/-- `RX_RESET max_nalu` (R180): the bytes of `ACC` are left as they are; those beyond the new capacity exist no more
(log entry 6). -/
def Rx.construct (maxNalu : Nat) (r : Rx) : Rx :=
  { r with maxNalu := maxNalu, accLen := 0, acc := r.acc.below maxNalu }

/-- `RX_RESET` (R180). -/
def execRxReset (maxNalu : Nat) (s : State) : Result State := s.onRx (fun r => .next ((r.construct maxNalu).done .ok))

/-- `TX_RESET max_payload ssrc seq ts` (R181). -/
def Tx.construct (maxPayload : BitVec 16) (ssrc : BitVec 32) (seq : BitVec 16) (ts : BitVec 32) (t : Tx) : Tx :=
  (((t.setMaxPayload maxPayload).setSsrc ssrc).setSeq seq).setTs ts

/-- `TX_RESET` (R181). -/
def execTxReset (maxPayload : BitVec 16) (ssrc : BitVec 32) (seq : BitVec 16) (ts : BitVec 32) (s : State) :
    Result State :=
  s.onTx (fun t => .next ((t.construct maxPayload ssrc seq ts).done .ok))

/-- The host writes `MAX_PAYLOAD` between operations; the next `PACKETIZE` reads it (R29, R51, R188). It is no operation
(R72), so it ends with no status. -/
def hostWriteMaxPayload (v : BitVec 16) (s : State) : Result State := s.onTx (fun t => .next (t.setMaxPayload v))

end Sys2Proof.Machine
end

