-- ==== Sys2Proof/Machine/Sequence.lean ====
section
/-! DEFINITION. The sequence-counter engine: `SEQ_NEXT` and `TS_ADVANCE` (43_sequence.md R150, R151). Only the
packetizer issues them (`issuerOf`). As operations they end with one status, given to that caller (R31, R160; log entries 17 to
19); inside `PACKETIZE`, which is one operation of the host, only its own status is given. -/

namespace Sys2Proof.Machine

/-- `SEQ_NEXT` (R150). -/
def execSeqNext (s : State) : Result State := s.onTx (fun t => .next (t.seqNext.done .ok))

/-- `TS_ADVANCE(fps)` (R151). Its caller has rejected `fps = 0`; issued with 0 it ends with the error that R138
gives that frame rate, and the timestamp stands (log entry 17). -/
def execTsAdvance (fps : BitVec 32) (s : State) : Result State :=
  s.onTx (fun t => if fps = 0 then .next (t.done .badFrameRate) else .next ((t.tsAdvance fps).done .ok))

end Sys2Proof.Machine
end

