-- ==== Sys2Proof/Machine/Dispatch.lean ====
section
/-! DEFINITION. One arm per constructor of `Instr`, each one call of its meaning. -/

namespace Sys2Proof.Machine

/-- The effect of one instruction. -/
def exec (i : Instr) (s : State) : Host.Outcome State Fault Refusal :=
  match i with
  | .rxTooShort p => Sys2Proof.Machine.execRxTooShort p s
  | .rxSingleT01 h f nri rest => Sys2Proof.Machine.execRxSingleT01 h f nri rest s
  | .rxSingleT02 h f nri rest => Sys2Proof.Machine.execRxSingleT02 h f nri rest s
  | .rxSingleT03 h f nri rest => Sys2Proof.Machine.execRxSingleT03 h f nri rest s
  | .rxSingleT04 h f nri rest => Sys2Proof.Machine.execRxSingleT04 h f nri rest s
  | .rxSingleT05 h f nri rest => Sys2Proof.Machine.execRxSingleT05 h f nri rest s
  | .rxSingleT06 h f nri rest => Sys2Proof.Machine.execRxSingleT06 h f nri rest s
  | .rxSingleT07 h f nri rest => Sys2Proof.Machine.execRxSingleT07 h f nri rest s
  | .rxSingleT08 h f nri rest => Sys2Proof.Machine.execRxSingleT08 h f nri rest s
  | .rxSingleT09 h f nri rest => Sys2Proof.Machine.execRxSingleT09 h f nri rest s
  | .rxSingleT10 h f nri rest => Sys2Proof.Machine.execRxSingleT10 h f nri rest s
  | .rxSingleT11 h f nri rest => Sys2Proof.Machine.execRxSingleT11 h f nri rest s
  | .rxSingleT12 h f nri rest => Sys2Proof.Machine.execRxSingleT12 h f nri rest s
  | .rxSingleT13 h f nri rest => Sys2Proof.Machine.execRxSingleT13 h f nri rest s
  | .rxSingleT14 h f nri rest => Sys2Proof.Machine.execRxSingleT14 h f nri rest s
  | .rxSingleT15 h f nri rest => Sys2Proof.Machine.execRxSingleT15 h f nri rest s
  | .rxSingleT16 h f nri rest => Sys2Proof.Machine.execRxSingleT16 h f nri rest s
  | .rxSingleT17 h f nri rest => Sys2Proof.Machine.execRxSingleT17 h f nri rest s
  | .rxSingleT18 h f nri rest => Sys2Proof.Machine.execRxSingleT18 h f nri rest s
  | .rxSingleT19 h f nri rest => Sys2Proof.Machine.execRxSingleT19 h f nri rest s
  | .rxSingleT20 h f nri rest => Sys2Proof.Machine.execRxSingleT20 h f nri rest s
  | .rxSingleT21 h f nri rest => Sys2Proof.Machine.execRxSingleT21 h f nri rest s
  | .rxSingleT22 h f nri rest => Sys2Proof.Machine.execRxSingleT22 h f nri rest s
  | .rxSingleT23 h f nri rest => Sys2Proof.Machine.execRxSingleT23 h f nri rest s
  | .rxFuTrunc h f nri => Sys2Proof.Machine.execRxFuTrunc h f nri s
  | .rxFuStart h f nri e r ty body => Sys2Proof.Machine.execRxFuStart h f nri e r ty body s
  | .rxFuMid h f nri r ty body => Sys2Proof.Machine.execRxFuMid h f nri r ty body s
  | .rxFuEnd h f nri r ty body => Sys2Proof.Machine.execRxFuEnd h f nri r ty body s
  | .rxOtherT00 h f nri rest => Sys2Proof.Machine.execRxOtherT00 h f nri rest s
  | .rxOtherT24 h f nri rest => Sys2Proof.Machine.execRxOtherT24 h f nri rest s
  | .rxOtherT25 h f nri rest => Sys2Proof.Machine.execRxOtherT25 h f nri rest s
  | .rxOtherT26 h f nri rest => Sys2Proof.Machine.execRxOtherT26 h f nri rest s
  | .rxOtherT27 h f nri rest => Sys2Proof.Machine.execRxOtherT27 h f nri rest s
  | .rxOtherT29 h f nri rest => Sys2Proof.Machine.execRxOtherT29 h f nri rest s
  | .rxOtherT30 h f nri rest => Sys2Proof.Machine.execRxOtherT30 h f nri rest s
  | .rxOtherT31 h f nri rest => Sys2Proof.Machine.execRxOtherT31 h f nri rest s
  | .txSingle f nri ty rest => Sys2Proof.Machine.execTxSingle f nri ty rest s
  | .txFuStart f nri ty slice => Sys2Proof.Machine.execTxFuStart f nri ty slice s
  | .txFuMid f nri ty slice => Sys2Proof.Machine.execTxFuMid f nri ty slice s
  | .txFuEnd f nri ty slice => Sys2Proof.Machine.execTxFuEnd f nri ty slice s
  | .structRtpHeader h => Sys2Proof.Machine.execStructRtpHeader h s
  | .structNalHeaderH264 f nri ty => Sys2Proof.Machine.execStructNalHeaderH264 f nri ty s
  | .structFuIndicatorH264 f nri => Sys2Proof.Machine.execStructFuIndicatorH264 f nri s
  | .structFuHeaderH264 sb e ty => Sys2Proof.Machine.execStructFuHeaderH264 sb e ty s
  | .structNalHeaderH265 f ty layerId tid => Sys2Proof.Machine.execStructNalHeaderH265 f ty layerId tid s
  | .structFuHeaderH265 sb e fuType => Sys2Proof.Machine.execStructFuHeaderH265 sb e fuType s
  | .rtpDec b => Sys2Proof.Machine.execRtpDec b s
  | .rtpEnc h => Sys2Proof.Machine.execRtpEnc h s
  | .nalhDec b => Sys2Proof.Machine.execNalhDec b s
  | .nalhEnc f nri ty => Sys2Proof.Machine.execNalhEnc f nri ty s
  | .fuiDec b => Sys2Proof.Machine.execFuiDec b s
  | .fuiEnc f nri => Sys2Proof.Machine.execFuiEnc f nri s
  | .fuhDec b => Sys2Proof.Machine.execFuhDec b s
  | .fuhEnc sb e ty => Sys2Proof.Machine.execFuhEnc sb e ty s
  | .nalh265Dec b => Sys2Proof.Machine.execNalh265Dec b s
  | .nalh265Enc f ty layerId tid => Sys2Proof.Machine.execNalh265Enc f ty layerId tid s
  | .fuh265Dec b => Sys2Proof.Machine.execFuh265Dec b s
  | .fuh265Enc sb e fuType => Sys2Proof.Machine.execFuh265Enc sb e fuType s
  | .onPacket p => Sys2Proof.Machine.execOnPacket p s
  | .packetize u fps => Sys2Proof.Machine.execPacketize u fps s
  | .seqNext => Sys2Proof.Machine.execSeqNext s
  | .tsAdvance fps => Sys2Proof.Machine.execTsAdvance fps s
  | .rxReset maxNalu => Sys2Proof.Machine.execRxReset maxNalu s
  | .txReset maxPayload ssrc seq ts => Sys2Proof.Machine.execTxReset maxPayload ssrc seq ts s

end Sys2Proof.Machine
end

