-- ==== Sys2Proof/Machine/Issue.lean ====
section
/-! DEFINITION. Who may issue an instruction (43_sequence.md section 2, R153; 60_exceptions.md R171): the host issues the operations of
R193, and the micro-operations that move `SEQ` and `TS` have one caller, the packetizer. -/

namespace Sys2Proof.Machine

/-- Who issues an instruction. -/
inductive Issuer where
  | host
  | packetizer
  deriving DecidableEq, Repr

/-- The one issuer of an instruction, by its row of the table: the four packet kinds (rows 36 to 39), `SEQ_NEXT` (row 60) and
`TS_ADVANCE` (row 61) are "used only from inside `PACKETIZE`"; every other row is the host's. -/
def issuerOf (i : Instr) : Issuer := if i.row ∈ [36, 37, 38, 39, 60, 61] then .packetizer else .host

/-- Runs one message of `who`: decodes it and executes the instruction, or refuses by name what spells no instruction and
what `who` cannot issue. -/
def runFrame (who : Issuer) (fr : Frame) (s : State) : Host.Outcome State Fault Refusal :=
  match decode fr with
  | .ok i => if issuerOf i = who then exec i s else .refused .wrongIssuer
  | .error e => .refused (.badFrame e)

end Sys2Proof.Machine
end

