-- ==== Sys2Proof/Machine/Step.lean ====
section
/-! DEFINITION. One step: the block takes the oldest request of the host and runs it to its end (R6, R47, R49). It has no
program counter (R24); what stands in its place is the order of the requests (log entry 7). A micro-operation of the
packetizer, when one stands there, comes before any request, because the operation it belongs to has not ended (R49). -/

namespace Sys2Proof.Machine

/-- One step. With nothing issued and nothing pending the block waits: the state stands (R193). -/
def step (s : State) : Host.Outcome State Fault Refusal :=
  match s.micro with
  | fr :: rest => runFrame .packetizer fr { s with micro := rest }
  | [] =>
    match s.pending with
    | [] => .next s
    | .message fr :: rest => runFrame .host fr { s with pending := rest }
    | .writeMaxPayload v :: rest => hostWriteMaxPayload v { s with pending := rest }

/-- `s` with the table word `w` of `nbits` bits where the next step takes its instruction: a micro-operation of the packetizer
before all others, any other word as the oldest request of the host with no micro-operation before it. -/
def State.withFetchWord (s : State) (nbits w : Nat) : State :=
  if (decodeTableWord nbits w).map issuerOf = some .packetizer then { s with micro := tableFrame nbits w :: s.micro }
  else { s with micro := [], pending := .message (tableFrame nbits w) :: s.pending }

end Sys2Proof.Machine
end

