-- ==== Sys2Proof/Machine/System.lean ====
section
/-! DEFINITION. Any number of instances side by side (60_exceptions.md R170): a list of states, each one transmit and one
receive instance of which the host may leave either unused. The position in the list is the host's own handle on an
instance (R32); the block has no instance identifier. Which instance moves next is the host's choice (R49). -/

namespace Sys2Proof.Machine

/-- The instances the host holds. -/
abbrev System := List State

/-- The host lets instance `k` take its oldest request; the others stand still. A position that holds no instance moves
nothing: no operation on it can be written down (R183). -/
def System.stepAt (k : Nat) (sys : System) : Result System :=
  match sys[k]? with
  | none => .next sys
  | some s => andThen (step s) (fun s' => .next (sys.set k s'))

/-- The host constructs an instance pair with its configuration (R180, R181, R193). -/
def System.construct (maxNalu : Nat) (maxPayload : BitVec 16) (ssrc : BitVec 32) (seq : BitVec 16) (ts : BitVec 32)
    (sys : System) : System :=
  sys ++ [{ State.reset with
    rx := { Rx.reset with maxNalu := maxNalu }
    tx := { Tx.reset with maxPayload := maxPayload, ssrc := ssrc, seq := seq, ts := ts } }]

/-- The host drops instance `k`: a partial reassembly goes with it and nothing is emitted or owed (R182). DESIGN CHOICE
(log entry 20): the messages sent to it and not yet taken (`State.pending`) are discarded with it, and so is all else of
its `State`; R182 names the partial reassembly only. The instances behind it move up one position. -/
def System.drop (k : Nat) (sys : System) : System := sys.eraseIdx k

/-- The host sends instance `k` a request, behind those it has already sent (R49). -/
def System.send (k : Nat) (q : Request) (sys : System) : System :=
  sys.modify k (fun s => { s with pending := s.pending ++ [q] })

end Sys2Proof.Machine
end

