-- ==== Sys2Proof/Safety.lean ====
section
/-! DEFINITION. The terms claims use: the next state of an outcome, runs of several operations, what a receive instance
keeps true between operations (10_state.md R22), what every emitted packet looks like (42_packetizer.md R132), and
what it means for a state to have only added to its output channels (20_memory.md R40). -/

namespace Sys2Proof.Machine

/-- The next state of an outcome, when there is one. -/
def nextState? {α : Type} (o : Result α) : Option α :=
  match o with
  | .next a => some a
  | .fault _ => none
  | .refused _ => none

/-- Runs instructions one after another, stopping at the first fault or refusal. -/
def execAll (is : List Instr) (s : State) : Result State :=
  match is with
  | [] => .next s
  | i :: rest => andThen (exec i s) (fun s' => execAll rest s')

/-- The message that the next step runs, and who issued it: the oldest micro-operation of the packetizer, else the host's
oldest request when that is a message. -/
def State.nextFrame? (s : State) : Option (Issuer × Frame) :=
  match s.micro with
  | fr :: _ => some (.packetizer, fr)
  | [] =>
    match s.pending with
    | .message fr :: _ => some (.host, fr)
    | _ => none

/-- The instruction of the packet's class for `ON_PACKET` (R70), and any other instruction itself. -/
def packetClass (i : Instr) : Instr := if let .onPacket p := i then classify p else i

/-- Feeds packets to the receive instance, one `ON_PACKET` each, in order. -/
def feed (ps : List ByteString) (s : State) : Result State := execAll (ps.map .onPacket) s

/-- Every byte below `ACC_LEN` has been written (R21: those are the bytes that have meaning). -/
def Rx.Filled (r : Rx) : Prop := ∀ a, a < r.accLen → (r.acc.read a).isSome

/-- What a receive instance keeps between operations (R21, R22, R40). -/
structure Rx.Inv (r : Rx) : Prop where
  /-- The accumulator's memory is in canonical form. -/
  canonical : r.acc.wf
  /-- No byte is held at or beyond `MAX_NALU` (R21). -/
  inArray : ∀ c ∈ r.acc, c.1 < r.maxNalu
  /-- `ACC_LEN` is 0 or at least 5 (R22). -/
  phase : r.accLen = 0 ∨ 5 ≤ r.accLen
  /-- `ACC_LEN` is at most `MAX_NALU` (R22). -/
  bounded : r.accLen ≤ r.maxNalu
  /-- The bytes below `ACC_LEN` have values. -/
  filled : r.Filled
  /-- While assembling, `ACC[0:4]` is the start code (R22, R41). -/
  startCode : r.accLen ≠ 0 → r.acc.readBytes 0 4 = .ok Config.startCode
  /-- Every emitted unit begins with the start code and has at least 5 bytes (R118, 95_test_vectors.md part 4). -/
  units : ∀ u ∈ r.naluOut, 5 ≤ u.length ∧ u.take 4 = Config.startCode

/-- An outbound packet's first two bytes are `80 E0` or `80 60`, and it has at least a header and one byte (R132). -/
def packetBegins (b : ByteString) : Prop :=
  13 ≤ b.length ∧ byteAt b 0 = 0x80 ∧ (byteAt b 1 = 0xE0 ∨ byteAt b 1 = 0x60)

/-- What a state keeps between operations. -/
structure State.Inv (s : State) : Prop where
  rx : s.rx.Inv
  packets : ∀ b ∈ s.tx.pktOut, packetBegins b

/-- The packet that carries fragment `i` of `body` in the words of R132, R136 and R137: the header with sequence number
`seq + i + 1` and `M` on the last fragment only, the FU indicator `(body[0] AND 0xE0) OR 28`, the FU header
`S*128 + E*64 + (body[0] AND 0x1F)`, and the `i`-th piece of `maxPayload` bytes of `body[1:]`. -/
def fragmentPacket (seq : BitVec 16) (ts ssrc : BitVec 32) (body : ByteString) (maxPayload i : Nat) : ByteString :=
  let count := (body.length - 1 + maxPayload - 1) / maxPayload
  let first := decide (i = 0)
  let last := decide (i = count - 1)
  rtpPack { v := 2, p := 0, x := 0, cc := 0, m := if last then 1 else 0, pt := 96,
            seq := seq + BitVec.ofNat 16 (i + 1), ts := ts, ssrc := ssrc }
    ++ [(byteAt body 0 &&& 0xE0) ||| 28,
        BitVec.ofNat 8 ((if first then 128 else 0) + (if last then 64 else 0) + (byteAt body 0 &&& 0x1F).toNat)]
    ++ ((body.drop 1).drop (i * maxPayload)).take maxPayload

/-- `s'` has on every output channel, and among the codec's results and the statuses given, what `s` had there, and perhaps more
after it: the channels are append-only (R40), and a message handed over is never touched again (R187). -/
structure State.Extends (s s' : State) : Prop where
  naluOut : s.rx.naluOut <+: s'.rx.naluOut
  rxStatus : s.rx.rxStatus <+: s'.rx.rxStatus
  rxDiag : s.rx.rxDiag <+: s'.rx.rxDiag
  pktOut : s.tx.pktOut <+: s'.tx.pktOut
  txStatus : s.tx.txStatus <+: s'.tx.txStatus
  codecOut : s.codecOut <+: s'.codecOut
  rxEnded : s.rx.ended <+: s'.rx.ended
  txEnded : s.tx.ended <+: s'.tx.ended
  codecEnded : s.codecEnded <+: s'.codecEnded

/-- The 23 rows of `RX_SINGLE` on one packet's fields, each with its type (R70, R114). -/
def singleRows (h : RtpHeader) (f : BitVec 1) (nri : BitVec 2) (rest : ByteString) : List (BitVec 5 × Instr) :=
  [(1, .rxSingleT01 h f nri rest),
   (2, .rxSingleT02 h f nri rest),
   (3, .rxSingleT03 h f nri rest),
   (4, .rxSingleT04 h f nri rest),
   (5, .rxSingleT05 h f nri rest),
   (6, .rxSingleT06 h f nri rest),
   (7, .rxSingleT07 h f nri rest),
   (8, .rxSingleT08 h f nri rest),
   (9, .rxSingleT09 h f nri rest),
   (10, .rxSingleT10 h f nri rest),
   (11, .rxSingleT11 h f nri rest),
   (12, .rxSingleT12 h f nri rest),
   (13, .rxSingleT13 h f nri rest),
   (14, .rxSingleT14 h f nri rest),
   (15, .rxSingleT15 h f nri rest),
   (16, .rxSingleT16 h f nri rest),
   (17, .rxSingleT17 h f nri rest),
   (18, .rxSingleT18 h f nri rest),
   (19, .rxSingleT19 h f nri rest),
   (20, .rxSingleT20 h f nri rest),
   (21, .rxSingleT21 h f nri rest),
   (22, .rxSingleT22 h f nri rest),
   (23, .rxSingleT23 h f nri rest)]

/-- The eight rows of `RX_OTHER` on one packet's fields, each with its type (R70, R119). -/
def otherRows (h : RtpHeader) (f : BitVec 1) (nri : BitVec 2) (rest : ByteString) : List (BitVec 5 × Instr) :=
  [(0, .rxOtherT00 h f nri rest),
   (24, .rxOtherT24 h f nri rest),
   (25, .rxOtherT25 h f nri rest),
   (26, .rxOtherT26 h f nri rest),
   (27, .rxOtherT27 h f nri rest),
   (29, .rxOtherT29 h f nri rest),
   (30, .rxOtherT30 h f nri rest),
   (31, .rxOtherT31 h f nri rest)]

/-- Who executes an instruction (R11, the instance column of R72). -/
inductive Agent where
  | rx
  | tx
  | codec
  deriving DecidableEq, Repr

/-- The agent of an instruction, by its row of the table: the receive classes, `ON_PACKET` and `RX_RESET` are the receive
instance's; the packet kinds, `PACKETIZE`, `SEQ_NEXT`, `TS_ADVANCE` and `TX_RESET` the transmit instance's; the
structures and the twelve functions the codec's. -/
def agentOf (i : Instr) : Agent :=
  if i.row < 36 then .rx
  else if i.row < 40 then .tx
  else if i.row < 58 then .codec
  else if i.row = 58 ∨ i.row = 62 then .rx
  else .tx

end Sys2Proof.Machine
end

