-- ==== Sys2Proof/Certificates/Slice0/Obligations.lean ====
section
/-! DEFINITION. The statements about the model. Each docstring names the rules of spec/ it rests on, and says so where a clause
rests on a decision or inference that the spec marks as its own, or on the model's log. -/

open Sys2Proof Sys2Proof.Machine

/-! ### Encoding and decoding -/

/-- Words written out from the spec's encodings: R70's class words (match values of `RX_SINGLE_T07`, `RX_FU_START`,
`RX_OTHER_T24`), R72's operation numbers 14 and 16, the packet `H 7C 45 A8` of R118's form, an FU indicator byte
(R63), an FU header byte (R64) and the H.265 NAL header `03 0A` (R65). Not the spec's but the model's: that the 8-bit
word `1C` is `RX_FU_TRUNC` and not a structure's byte, and the packet header put before a class word (log entry 9);
the operand bytes of `TX_RESET` in the last clause, and `RX_RESET` with no operand byte other than zeros (log entry 8:
R72 gives the operations no binary encoding). -/
def Obligations.SpecWordsDecode : Prop :=
  (∃ h, decodeTableWord 16 0x0700 = some (.rxSingleT07 h 0 0 [0])) ∧
  (∃ h, decodeTableWord 16 0x1C80 = some (.rxFuStart h 0 0 0 0 0 [])) ∧
  (∃ h, decodeTableWord 16 0x1800 = some (.rxOtherT24 h 0 0 [0])) ∧
  (∃ h, decodeTableWord 8 0x1C = some (.rxFuTrunc h 0 0)) ∧
  decodeTableWord 8 14 = some .seqNext ∧
  decodeTableWord 8 16 = some (.rxReset 0) ∧
  decode ⟨.pktIn, [0x80, 0x60, 0x00, 0x07, 0, 0, 0, 0, 0, 0, 0, 0x01, 0x7C, 0x45, 0xA8]⟩ =
    .ok (.rxFuEnd ⟨2, 0, 0, 0, 0, 96, 7, 0, 1⟩ 0 3 0 5 [0xA8]) ∧
  decode ⟨.fuIndicatorH264, [0x7C]⟩ = .ok (.structFuIndicatorH264 0 3) ∧
  decode ⟨.fuHeaderH264, [0x85]⟩ = .ok (.structFuHeaderH264 1 0 5) ∧
  decode ⟨.nalHeaderH265, [0x03, 0x0A]⟩ = .ok (.structNalHeaderH265 0 1 33 2) ∧
  decode ⟨.op, [0x11, 0x04, 0xB0, 0x11, 0x22, 0x33, 0x44, 0, 0, 0, 0, 0, 0]⟩ = .ok (.txReset 1200 0x11223344 0 0)

/-- Decoding what the encoder writes gives every well-formed instruction back, whatever its operands. The operand
bytes of operations are the model's own (log entry 8: the spec gives operations no binary encoding, D3). -/
def Obligations.DecodeInvertsEncode : Prop :=
  ∀ i : Instr, i.wellFormed = true → decode (encode i) = .ok i

/-- Every packet has a class, and encoding the class gives the packet back: no byte of an inbound packet is dropped
(R43, R70). -/
def Obligations.PacketDecodeLosesNothing : Prop :=
  ∀ p : ByteString, decode ⟨.pktIn, p⟩ = .ok (classify p) ∧ encode (classify p) = ⟨.pktIn, p⟩

/-- The decode map agrees with the table's rows (R70). With 14 bytes or more, a packet's class is a row's instruction
exactly when `word AND mask = match`; with 13 bytes the rows of mask 0x1F00 apply with any value in the low byte and
type 28 is `RX_FU_TRUNC`; a shorter packet is `RX_TOO_SHORT`. -/
def Obligations.ClassRowsSelectTheInstruction : Prop :=
  ∀ p : ByteString,
    (14 ≤ p.length → ∀ r ∈ classRows, (classWord p &&& r.mask = r.value ↔ (classify p).row = r.row)) ∧
    (p.length = 13 →
      (∀ r ∈ classRows, r.mask = 0x1F00 →
        ∀ x < 256, ((byteAt p 12).toNat * 256 + x) &&& r.mask = r.value ↔ (classify p).row = r.row) ∧
      ((byteAt p 12).toNat &&& 0x1F = 0x1C ↔ (classify p).row = 24)) ∧
    (p.length < 13 ↔ (classify p).row = 0)

/-- The 34 `rxclass` rows cover all 65536 values of the word and no two of them overlap (R70, marked there as derived
by enumeration). -/
def Obligations.ClassRowsPartitionTheWord : Prop :=
  classRows.length = 34 ∧
  ∀ w < 65536, ∃ r ∈ classRows, w &&& r.mask = r.value ∧ ∀ r' ∈ classRows, w &&& r'.mask = r'.value → r' = r

/-- A step takes the oldest request of the host; when it is a message that decodes to `i`, an instruction the host may
issue, the step is `exec i` at the state without that request, and nothing else (R47, R49; the queue is log entry 7).
A micro-operation that the packetizer has issued comes before any request and is run the same way (log entry 18). A
message that spells no operation is refused by name, and so is one that its sender may not issue (R153, R171). With
nothing issued and nothing pending the block waits. -/
def Obligations.StepRunsTheDecodedInstruction : Prop :=
  ∀ (s : State) (rest : List Request) (later : List Frame) (fr : Frame),
    (s.micro = [] → s.pending = .message fr :: rest →
      (∀ i, decode fr = .ok i → issuerOf i = .host → step s = exec i { s with pending := rest }) ∧
      (∀ i, decode fr = .ok i → issuerOf i = .packetizer → step s = .refused .wrongIssuer) ∧
      (∀ e, decode fr = .error e → step s = .refused (.badFrame e))) ∧
    (s.micro = fr :: later →
      (∀ i, decode fr = .ok i → issuerOf i = .packetizer → step s = exec i { s with micro := later }) ∧
      (∀ i, decode fr = .ok i → issuerOf i = .host → step s = .refused .wrongIssuer) ∧
      (∀ e, decode fr = .error e → step s = .refused (.badFrame e))) ∧
    (s.micro = [] → s.pending = [] → step s = .next s)

/-! ### The header codec -/

/-- `RTP_DEC` (R90): with fewer than 12 bytes `TruncatedInput` and no record; else the record of the first twelve
bytes, field by field, no field checked (D29), the bytes after them not looked at. It ends with `TruncatedInput` or
`OK` (R31, R160; where that status stands is log entry 19). Nothing else changes. -/
def Obligations.RtpDecReadsTwelveBytes : Prop :=
  ∀ (b : ByteString) (s : State),
    (b.length < 12 →
      exec (.rtpDec b) s = .next { s with
        codecOut := s.codecOut ++ [.raised .truncatedInput], codecEnded := s.codecEnded ++ [.truncatedInput] }) ∧
    (12 ≤ b.length → ∃ h : RtpHeader,
      exec (.rtpDec b) s = .next { s with codecOut := s.codecOut ++ [.rtp h], codecEnded := s.codecEnded ++ [.ok] } ∧
      (byteAt b 0).toNat = h.v.toNat * 64 + h.p.toNat * 32 + h.x.toNat * 16 + h.cc.toNat ∧
      (byteAt b 1).toNat = h.m.toNat * 128 + h.pt.toNat ∧
      h.seq.toNat = (byteAt b 2).toNat * 256 + (byteAt b 3).toNat ∧
      h.ts.toNat = (byteAt b 4).toNat * 2 ^ 24 + (byteAt b 5).toNat * 2 ^ 16 + (byteAt b 6).toNat * 2 ^ 8
        + (byteAt b 7).toNat ∧
      h.ssrc.toNat = (byteAt b 8).toNat * 2 ^ 24 + (byteAt b 9).toNat * 2 ^ 16 + (byteAt b 10).toNat * 2 ^ 8
        + (byteAt b 11).toNat)

/-- `RTP_ENC` (R91): exactly twelve bytes, byte 0 `V*64 + P*32 + X*16 + CC`, byte 1 `M*128 + PT`, then `seq`, `ts` and
`ssrc` most significant byte first. Of the status it ends with `EveryOperationEndsWithOneStatus` speaks, and nothing
else changes. -/
def Obligations.RtpEncWritesTwelveBytes : Prop :=
  ∀ (h : RtpHeader) (s : State), ∃ (b : ByteString) (ended : List Status),
    exec (.rtpEnc h) s = .next { s with codecOut := s.codecOut ++ [.bytes b], codecEnded := ended } ∧
    b.map BitVec.toNat =
      [h.v.toNat * 64 + h.p.toNat * 32 + h.x.toNat * 16 + h.cc.toNat, h.m.toNat * 128 + h.pt.toNat,
       h.seq.toNat / 256, h.seq.toNat % 256,
       h.ts.toNat / 2 ^ 24, h.ts.toNat / 2 ^ 16 % 256, h.ts.toNat / 2 ^ 8 % 256, h.ts.toNat % 256,
       h.ssrc.toNat / 2 ^ 24, h.ssrc.toNat / 2 ^ 16 % 256, h.ssrc.toNat / 2 ^ 8 % 256, h.ssrc.toNat % 256]

/-- `NALH_DEC` (R92): `TruncatedInput` on no bytes; else `F = b[0][7]`, `NRI = b[0][6:5]`, `Type = b[0][4:0]` for
every byte value. Of the status it ends with `EveryOperationEndsWithOneStatus` speaks, and nothing else changes. -/
def Obligations.NalhDecReadsOneByte : Prop :=
  ∀ s : State,
    (∃ ended, exec (.nalhDec []) s = .next { s with
      codecOut := s.codecOut ++ [.raised .truncatedInput], codecEnded := ended }) ∧
    ∀ (x : Byte) (rest : ByteString), ∃ f nri ty ended,
      exec (.nalhDec (x :: rest)) s = .next { s with codecOut := s.codecOut ++ [.nal f nri ty], codecEnded := ended } ∧
      f.toNat = x.toNat / 128 ∧ nri.toNat = x.toNat / 32 % 4 ∧ ty.toNat = x.toNat % 32

/-- `NALH_ENC` (R93): the byte `F*128 + NRI*32 + Type`. Of the status it ends with `EveryOperationEndsWithOneStatus`
speaks, and nothing else changes. -/
def Obligations.NalhEncWritesOneByte : Prop :=
  ∀ (f : BitVec 1) (nri : BitVec 2) (ty : BitVec 5) (s : State), ∃ (x : Byte) (ended : List Status),
    exec (.nalhEnc f nri ty) s = .next { s with codecOut := s.codecOut ++ [.bytes [x]], codecEnded := ended } ∧
    x.toNat = f.toNat * 128 + nri.toNat * 32 + ty.toNat

/-- `FUI_DEC` (R94): what `NALH_DEC` gives, on every byte string, the type not checked (D30). It ends with
`TruncatedInput` or `OK` (R31, R160; where that status stands is log entry 19). Nothing else changes. -/
def Obligations.FuiDecReadsANalHeader : Prop :=
  ∀ s : State,
    exec (.fuiDec []) s = .next { s with
      codecOut := s.codecOut ++ [.raised .truncatedInput], codecEnded := s.codecEnded ++ [.truncatedInput] } ∧
    ∀ (x : Byte) (rest : ByteString), ∃ f nri ty,
      exec (.fuiDec (x :: rest)) s = .next { s with
        codecOut := s.codecOut ++ [.nal f nri ty], codecEnded := s.codecEnded ++ [.ok] } ∧
      exec (.fuiDec (x :: rest)) s = exec (.nalhDec (x :: rest)) s ∧
      f.toNat = x.toNat / 128 ∧ nri.toNat = x.toNat / 32 % 4 ∧ ty.toNat = x.toNat % 32

/-- `FUI_ENC` (R95): the byte `F*128 + NRI*32 + 28`. Of the status it ends with `EveryOperationEndsWithOneStatus`
speaks, and nothing else changes. -/
def Obligations.FuiEncWritesType28 : Prop :=
  ∀ (f : BitVec 1) (nri : BitVec 2) (s : State), ∃ (x : Byte) (ended : List Status),
    exec (.fuiEnc f nri) s = .next { s with codecOut := s.codecOut ++ [.bytes [x]], codecEnded := ended } ∧
    x.toNat = f.toNat * 128 + nri.toNat * 32 + 28

/-- `FUH_DEC` (R96): `TruncatedInput` on no bytes; else `S`, `E`, `R` and `Type` as they stand. Of the status it ends
with `EveryOperationEndsWithOneStatus` speaks, and nothing else changes. -/
def Obligations.FuhDecReadsOneByte : Prop :=
  ∀ s : State,
    (∃ ended, exec (.fuhDec []) s = .next { s with
      codecOut := s.codecOut ++ [.raised .truncatedInput], codecEnded := ended }) ∧
    ∀ (x : Byte) (rest : ByteString), ∃ sb e r ty ended,
      exec (.fuhDec (x :: rest)) s = .next { s with
        codecOut := s.codecOut ++ [.fuHeader sb e r ty], codecEnded := ended } ∧
      sb.toNat = x.toNat / 128 ∧ e.toNat = x.toNat / 64 % 2 ∧ r.toNat = x.toNat / 32 % 2 ∧ ty.toNat = x.toNat % 32

/-- `FUH_ENC` (R97): the byte `S*128 + E*64 + 0*32 + Type`. Of the status it ends with
`EveryOperationEndsWithOneStatus` speaks, and nothing else changes. -/
def Obligations.FuhEncZeroesTheReservedBit : Prop :=
  ∀ (sb e : BitVec 1) (ty : BitVec 5) (s : State), ∃ (x : Byte) (ended : List Status),
    exec (.fuhEnc sb e ty) s = .next { s with codecOut := s.codecOut ++ [.bytes [x]], codecEnded := ended } ∧
    x.toNat = sb.toNat * 128 + e.toNat * 64 + 0 * 32 + ty.toNat

/-- `NALH265_DEC` (R98): `TruncatedInput` on fewer than two bytes; else the fields of the 16-bit big-endian value. Of
the status it ends with `EveryOperationEndsWithOneStatus` speaks, and nothing else changes. -/
def Obligations.Nalh265DecReadsTwoBytes : Prop :=
  ∀ s : State,
    (∀ b : ByteString, b.length < 2 → ∃ ended,
      exec (.nalh265Dec b) s = .next { s with
        codecOut := s.codecOut ++ [.raised .truncatedInput], codecEnded := ended }) ∧
    ∀ (x y : Byte) (rest : ByteString), ∃ f ty layerId tid ended,
      exec (.nalh265Dec (x :: y :: rest)) s =
        .next { s with codecOut := s.codecOut ++ [.nal265 f ty layerId tid], codecEnded := ended } ∧
      f.toNat = (x.toNat * 256 + y.toNat) / 32768 ∧ ty.toNat = (x.toNat * 256 + y.toNat) / 512 % 64 ∧
      layerId.toNat = (x.toNat * 256 + y.toNat) / 8 % 64 ∧ tid.toNat = (x.toNat * 256 + y.toNat) % 8

/-- `NALH265_ENC` (R99): the two bytes of `F*32768 + Type*512 + LayerId*8 + TID`, most significant first. Of the
status it ends with `EveryOperationEndsWithOneStatus` speaks, and nothing else changes. -/
def Obligations.Nalh265EncWritesTwoBytes : Prop :=
  ∀ (f : BitVec 1) (ty layerId : BitVec 6) (tid : BitVec 3) (s : State), ∃ (x y : Byte) (ended : List Status),
    exec (.nalh265Enc f ty layerId tid) s = .next { s with
      codecOut := s.codecOut ++ [.bytes [x, y]], codecEnded := ended } ∧
    x.toNat * 256 + y.toNat = f.toNat * 32768 + ty.toNat * 512 + layerId.toNat * 8 + tid.toNat

/-- `FUH265_DEC` (R100): `TruncatedInput` on no bytes; else `S`, `E`, `FuType`. Of the status it ends with
`EveryOperationEndsWithOneStatus` speaks, and nothing else changes. -/
def Obligations.Fuh265DecReadsOneByte : Prop :=
  ∀ s : State,
    (∃ ended, exec (.fuh265Dec []) s = .next { s with
      codecOut := s.codecOut ++ [.raised .truncatedInput], codecEnded := ended }) ∧
    ∀ (x : Byte) (rest : ByteString), ∃ sb e ty ended,
      exec (.fuh265Dec (x :: rest)) s = .next { s with codecOut := s.codecOut ++ [.fu265 sb e ty], codecEnded := ended } ∧
      sb.toNat = x.toNat / 128 ∧ e.toNat = x.toNat / 64 % 2 ∧ ty.toNat = x.toNat % 64

/-- `FUH265_ENC` (R101): the byte `S*128 + E*64 + FuType`. Of the status it ends with
`EveryOperationEndsWithOneStatus` speaks, and nothing else changes. -/
def Obligations.Fuh265EncWritesOneByte : Prop :=
  ∀ (sb e : BitVec 1) (ty : BitVec 6) (s : State), ∃ (x : Byte) (ended : List Status),
    exec (.fuh265Enc sb e ty) s = .next { s with codecOut := s.codecOut ++ [.bytes [x]], codecEnded := ended } ∧
    x.toNat = sb.toNat * 128 + e.toNat * 64 + ty.toNat

/-- The codec's contract on round trips (R102, marked there as derived). Decode after encode is the identity on
records (with type 28 for the FU indicator, and `R = 0` for the FU header); encode after decode is the identity on the
first bytes for the RTP header, the two NAL headers and the H.265 FU header, and for the FU header exactly when `R` is
0. -/
def Obligations.CodecRoundTrips : Prop :=
  (∀ h rest, rtpUnpack (rtpPack h ++ rest) = h) ∧
  (∀ b : ByteString, 12 ≤ b.length → rtpPack (rtpUnpack b) = b.take 12) ∧
  (∀ f nri ty, (nalF (nalByte f nri ty), nalNri (nalByte f nri ty), nalType (nalByte f nri ty)) = (f, nri, ty)) ∧
  (∀ x : Byte, nalByte (nalF x) (nalNri x) (nalType x) = x) ∧
  (∀ f nri, (nalF (fuIndicator f nri), nalNri (fuIndicator f nri), nalType (fuIndicator f nri)) = (f, nri, 28)) ∧
  (∀ x : Byte, fuIndicator (nalF x) (nalNri x) = x ↔ nalType x = 28) ∧
  (∀ sb e ty, (fuS (fuHeader sb e ty), fuE (fuHeader sb e ty), fuR (fuHeader sb e ty), nalType (fuHeader sb e ty))
    = (sb, e, 0, ty)) ∧
  (∀ x : Byte, fuHeader (fuS x) (fuE x) (nalType x) = x ↔ fuR x = 0) ∧
  (∀ f ty l tid rest, (nal265F (nal265Pack f ty l tid ++ rest), nal265Type (nal265Pack f ty l tid ++ rest),
    nal265LayerId (nal265Pack f ty l tid ++ rest), nal265Tid (nal265Pack f ty l tid ++ rest)) = (f, ty, l, tid)) ∧
  (∀ x y rest, nal265Pack (nal265F (x :: y :: rest)) (nal265Type (x :: y :: rest)) (nal265LayerId (x :: y :: rest))
    (nal265Tid (x :: y :: rest)) = [x, y]) ∧
  (∀ sb e ty, (fuS (fu265Byte sb e ty), fuE (fu265Byte sb e ty), fu265Type (fu265Byte sb e ty)) = (sb, e, ty)) ∧
  (∀ x : Byte, fu265Byte (fuS x) (fuE x) (fu265Type x) = x)

/-- The six structures laid out (R61 to R66), as the rows of format `struct` (their meaning as instructions is the
model's choice, log entry 13): each gives the bytes whose integer the rule names, ends with `OK` (place: log entry
19), and nothing else changes. -/
def Obligations.StructRowsLayOutTheirFields : Prop :=
  ∀ s : State,
    (∀ h : RtpHeader, exec (.structRtpHeader h) s = exec (.rtpEnc h) s ∧ ∃ b,
      exec (.structRtpHeader h) s = .next { s with
        codecOut := s.codecOut ++ [.bytes b], codecEnded := s.codecEnded ++ [.ok] } ∧ b.length = 12 ∧
      rtpUnpack b = h) ∧
    (∀ f nri ty, ∃ x : Byte,
      exec (.structNalHeaderH264 f nri ty) s = .next { s with
        codecOut := s.codecOut ++ [.bytes [x]], codecEnded := s.codecEnded ++ [.ok] } ∧
      x.toNat = f.toNat * 128 + nri.toNat * 32 + ty.toNat) ∧
    (∀ f nri, ∃ x : Byte,
      exec (.structFuIndicatorH264 f nri) s = .next { s with
        codecOut := s.codecOut ++ [.bytes [x]], codecEnded := s.codecEnded ++ [.ok] } ∧
      x.toNat = f.toNat * 128 + nri.toNat * 32 + 28) ∧
    (∀ sb e ty, ∃ x : Byte,
      exec (.structFuHeaderH264 sb e ty) s = .next { s with
        codecOut := s.codecOut ++ [.bytes [x]], codecEnded := s.codecEnded ++ [.ok] } ∧
      x.toNat = sb.toNat * 128 + e.toNat * 64 + ty.toNat) ∧
    (∀ f ty l tid, ∃ x y : Byte,
      exec (.structNalHeaderH265 f ty l tid) s = .next { s with
        codecOut := s.codecOut ++ [.bytes [x, y]], codecEnded := s.codecEnded ++ [.ok] } ∧
      x.toNat * 256 + y.toNat = f.toNat * 32768 + ty.toNat * 512 + l.toNat * 8 + tid.toNat) ∧
    (∀ sb e ty, ∃ x : Byte,
      exec (.structFuHeaderH265 sb e ty) s = .next { s with
        codecOut := s.codecOut ++ [.bytes [x]], codecEnded := s.codecEnded ++ [.ok] } ∧
      x.toNat = sb.toNat * 128 + e.toNat * 64 + ty.toNat)

/-! ### The depacketizer -/

/-- A packet shorter than 13 bytes (R111, R162): status `PacketTooShort`; the accumulator is unchanged, nothing is
emitted and nothing goes on `rx_diag`. Nothing else changes but the record of given statuses, of which
`EveryOperationEndsWithOneStatus` speaks. -/
def Obligations.TooShortPacketRejected : Prop :=
  ∀ (p : ByteString) (s : State), p.length < 13 → ∀ i ∈ [Instr.onPacket p, Instr.rxTooShort p], ∃ ended : List Status,
    exec i s = .next { s with rx := { s.rx with rxStatus := s.rx.rxStatus ++ [.packetTooShort], ended := ended } }

/-- `ON_PACKET` does what the instruction of the packet's class does (R110, R113; the classes as instructions are log
entry 10): the decode map and the steps of the operation agree on every packet and every state. -/
def Obligations.OnPacketRunsItsClass : Prop :=
  ∀ (p : ByteString) (s : State), exec (.onPacket p) s = exec (classify p) s

/-- `RX_SINGLE` (R114), for `ON_PACKET` on a packet of type 1 to 23 and for each of the 23 rows: the unit `00 00 00 01
++ p[12:n]` is built in `ACC` from address 0 and emitted, `ACC_LEN` is 0 after, status `OK`; when `n - 8 > MAX_NALU`
nothing is written or emitted, `ACC_LEN` is 0 and the status is `ReassemblyOverflow` (R120, R165: the spec's decision
D5). The header goes on `rx_diag` whatever the status (R112: the spec's decision D16), the status is also the one the
operation has given (log entry 19), and nothing else changes. -/
def Obligations.SinglePacketEmitsItsUnit : Prop :=
  (∀ (p : ByteString) (s : State), 13 ≤ p.length → 1 ≤ (byteAt p 12).toNat % 32 → (byteAt p 12).toNat % 32 ≤ 23 →
    (p.length - 8 ≤ s.rx.maxNalu → exec (.onPacket p) s = .next { s with rx := { s.rx with
      acc := s.rx.acc.writeBytes 0 ([0, 0, 0, 1] ++ p.drop 12)
      accLen := 0
      naluOut := s.rx.naluOut ++ [[0, 0, 0, 1] ++ p.drop 12]
      rxStatus := s.rx.rxStatus ++ [.ok]
      ended := s.rx.ended ++ [.ok]
      rxDiag := s.rx.rxDiag ++ [rtpUnpack p] } }) ∧
    (s.rx.maxNalu < p.length - 8 → exec (.onPacket p) s = .next { s with rx := { s.rx with
      accLen := 0
      rxStatus := s.rx.rxStatus ++ [.reassemblyOverflow]
      ended := s.rx.ended ++ [.reassemblyOverflow]
      rxDiag := s.rx.rxDiag ++ [rtpUnpack p] } })) ∧
  (∀ (h : RtpHeader) (f : BitVec 1) (nri : BitVec 2) (rest : ByteString) (s : State), ∀ x ∈ singleRows h f nri rest,
    (5 + rest.length ≤ s.rx.maxNalu → exec x.2 s = .next { s with rx := { s.rx with
      acc := s.rx.acc.writeBytes 0 ([0, 0, 0, 1] ++ nalByte f nri x.1 :: rest)
      accLen := 0
      naluOut := s.rx.naluOut ++ [[0, 0, 0, 1] ++ nalByte f nri x.1 :: rest]
      rxStatus := s.rx.rxStatus ++ [.ok]
      ended := s.rx.ended ++ [.ok]
      rxDiag := s.rx.rxDiag ++ [h] } }) ∧
    (s.rx.maxNalu < 5 + rest.length → exec x.2 s = .next { s with rx := { s.rx with
      accLen := 0
      rxStatus := s.rx.rxStatus ++ [.reassemblyOverflow]
      ended := s.rx.ended ++ [.reassemblyOverflow]
      rxDiag := s.rx.rxDiag ++ [h] } }))

/-- `RX_FU_TRUNC` (R115, D17), for `ON_PACKET` on a 13-byte packet of type 28 and for the row: `TruncatedInput`, the
header on `rx_diag` (D16), a reassembly in progress not disturbed. -/
def Obligations.TruncatedFragmentRejected : Prop :=
  (∀ (p : ByteString) (s : State), p.length = 13 → (byteAt p 12).toNat % 32 = 28 →
    exec (.onPacket p) s = .next { s with rx := { s.rx with
      rxStatus := s.rx.rxStatus ++ [.truncatedInput]
      ended := s.rx.ended ++ [.truncatedInput]
      rxDiag := s.rx.rxDiag ++ [rtpUnpack p] } }) ∧
  (∀ (h : RtpHeader) (f : BitVec 1) (nri : BitVec 2) (s : State),
    exec (.rxFuTrunc h f nri) s = .next { s with rx := { s.rx with
      rxStatus := s.rx.rxStatus ++ [.truncatedInput]
      ended := s.rx.ended ++ [.truncatedInput]
      rxDiag := s.rx.rxDiag ++ [h] } })

/-- `RX_FU_START` (R116), for `ON_PACKET` and for the row: whatever was in progress is discarded; the start code, the
header `(p[12] AND 0xE0) OR (p[13] AND 0x1F)` and the fragment body are written from address 0 and `ACC_LEN` is `5 +
k`; nothing is emitted. When `5 + k > MAX_NALU` nothing is written, `ACC_LEN` is 0 and the status is
`ReassemblyOverflow` (D5). `S = 1` is a start whatever `E` is (D18), `R` is not looked at (D20), and the header goes
on `rx_diag` (D16): the spec's own decisions. -/
def Obligations.FragmentStartBeginsAUnit : Prop :=
  (∀ (p : ByteString) (s : State), 14 ≤ p.length → (byteAt p 12).toNat % 32 = 28 → 128 ≤ (byteAt p 13).toNat →
    (5 + (p.length - 14) ≤ s.rx.maxNalu → exec (.onPacket p) s = .next { s with rx := { s.rx with
      acc := s.rx.acc.writeBytes 0
        ([0, 0, 0, 1] ++ ((byteAt p 12 &&& 0xE0) ||| (byteAt p 13 &&& 0x1F)) :: p.drop 14)
      accLen := 5 + (p.length - 14)
      rxStatus := s.rx.rxStatus ++ [.ok]
      ended := s.rx.ended ++ [.ok]
      rxDiag := s.rx.rxDiag ++ [rtpUnpack p] } }) ∧
    (s.rx.maxNalu < 5 + (p.length - 14) → exec (.onPacket p) s = .next { s with rx := { s.rx with
      accLen := 0
      rxStatus := s.rx.rxStatus ++ [.reassemblyOverflow]
      ended := s.rx.ended ++ [.reassemblyOverflow]
      rxDiag := s.rx.rxDiag ++ [rtpUnpack p] } })) ∧
  (∀ (h : RtpHeader) (f : BitVec 1) (nri : BitVec 2) (e r : BitVec 1) (ty : BitVec 5) (body : ByteString) (s : State),
    (5 + body.length ≤ s.rx.maxNalu → exec (.rxFuStart h f nri e r ty body) s = .next { s with rx := { s.rx with
      acc := s.rx.acc.writeBytes 0 ([0, 0, 0, 1] ++ nalByte f nri ty :: body)
      accLen := 5 + body.length
      rxStatus := s.rx.rxStatus ++ [.ok]
      ended := s.rx.ended ++ [.ok]
      rxDiag := s.rx.rxDiag ++ [h] } }) ∧
    (s.rx.maxNalu < 5 + body.length → exec (.rxFuStart h f nri e r ty body) s = .next { s with rx := { s.rx with
      accLen := 0
      rxStatus := s.rx.rxStatus ++ [.reassemblyOverflow]
      ended := s.rx.ended ++ [.reassemblyOverflow]
      rxDiag := s.rx.rxDiag ++ [h] } }))

/-- `RX_FU_MID` (R117; the status of a dropped fragment is D21), for `ON_PACKET` and for the row: dropped with `OK`
when `ACC_LEN` is 0; appended at `ACC_LEN` when it fits `MAX_NALU`; else `ReassemblyOverflow` and `ACC_LEN` 0 (D5).
Nothing is emitted; the header goes on `rx_diag` (D16), `R` is not looked at (D20). -/
def Obligations.FragmentMiddleAppends : Prop :=
  ∀ (p : ByteString) (h : RtpHeader) (f : BitVec 1) (nri : BitVec 2) (r : BitVec 1) (ty : BitVec 5) (s : State),
    14 ≤ p.length → (byteAt p 12).toNat % 32 = 28 → (byteAt p 13).toNat < 64 → h = rtpUnpack p →
    ∀ i ∈ [Instr.onPacket p, Instr.rxFuMid h f nri r ty (p.drop 14)],
    (s.rx.accLen = 0 → exec i s = .next { s with rx := { s.rx with
      rxStatus := s.rx.rxStatus ++ [.ok]
      ended := s.rx.ended ++ [.ok]
      rxDiag := s.rx.rxDiag ++ [h] } }) ∧
    (s.rx.accLen ≠ 0 → s.rx.accLen + (p.length - 14) ≤ s.rx.maxNalu → exec i s = .next { s with rx := { s.rx with
      acc := s.rx.acc.writeBytes s.rx.accLen (p.drop 14)
      accLen := s.rx.accLen + (p.length - 14)
      rxStatus := s.rx.rxStatus ++ [.ok]
      ended := s.rx.ended ++ [.ok]
      rxDiag := s.rx.rxDiag ++ [h] } }) ∧
    (s.rx.accLen ≠ 0 → s.rx.maxNalu < s.rx.accLen + (p.length - 14) → exec i s = .next { s with rx := { s.rx with
      accLen := 0
      rxStatus := s.rx.rxStatus ++ [.reassemblyOverflow]
      ended := s.rx.ended ++ [.reassemblyOverflow]
      rxDiag := s.rx.rxDiag ++ [h] } })

/-- `RX_FU_END` (R118; the dropped orphan is D19, the overflow D5, the header on `rx_diag` D16, `R` ignored D20), for
`ON_PACKET` and for the row: dropped with `OK` when `ACC_LEN` is 0; when the body fits it is appended and
`ACC[0:ACC_LEN]` is emitted as one unit, `ACC_LEN` 0 after; else `ReassemblyOverflow`. The premise that the bytes
below `ACC_LEN` have values is part of the invariant. -/
def Obligations.FragmentEndEmitsTheUnit : Prop :=
  ∀ (p : ByteString) (h : RtpHeader) (f : BitVec 1) (nri : BitVec 2) (r : BitVec 1) (ty : BitVec 5) (u : ByteString)
    (s : State),
    14 ≤ p.length → (byteAt p 12).toNat % 32 = 28 → 64 ≤ (byteAt p 13).toNat → (byteAt p 13).toNat < 128 →
    h = rtpUnpack p → s.rx.acc.readBytes 0 s.rx.accLen = .ok u →
    ∀ i ∈ [Instr.onPacket p, Instr.rxFuEnd h f nri r ty (p.drop 14)],
    (s.rx.accLen = 0 → exec i s = .next { s with rx := { s.rx with
      rxStatus := s.rx.rxStatus ++ [.ok]
      ended := s.rx.ended ++ [.ok]
      rxDiag := s.rx.rxDiag ++ [h] } }) ∧
    (s.rx.accLen ≠ 0 → s.rx.accLen + (p.length - 14) ≤ s.rx.maxNalu → exec i s = .next { s with rx := { s.rx with
      acc := s.rx.acc.writeBytes s.rx.accLen (p.drop 14)
      accLen := 0
      naluOut := s.rx.naluOut ++ [u ++ p.drop 14]
      rxStatus := s.rx.rxStatus ++ [.ok]
      ended := s.rx.ended ++ [.ok]
      rxDiag := s.rx.rxDiag ++ [h] } }) ∧
    (s.rx.accLen ≠ 0 → s.rx.maxNalu < s.rx.accLen + (p.length - 14) → exec i s = .next { s with rx := { s.rx with
      accLen := 0
      rxStatus := s.rx.rxStatus ++ [.reassemblyOverflow]
      ended := s.rx.ended ++ [.reassemblyOverflow]
      rxDiag := s.rx.rxDiag ++ [h] } })

/-- Where `RX_FU_END` stops (log entry 5, the model's choice; the content of such a byte is unspecified, D25): when
the body fits and a byte below `ACC_LEN` was never written, the emission faults and names the first such address. No
state with the invariant has one (`EveryOperationEnds`). -/
def Obligations.UnwrittenAccumulatorByteFaults : Prop :=
  ∀ (h : RtpHeader) (f : BitVec 1) (nri : BitVec 2) (r : BitVec 1) (ty : BitVec 5) (body : ByteString) (a : Nat) (s : State),
    s.rx.accLen + body.length ≤ s.rx.maxNalu → a < s.rx.accLen → s.rx.acc.read a = none →
    (∀ b < a, (s.rx.acc.read b).isSome) →
    exec (.rxFuEnd h f nri r ty body) s = .fault (.accByteNeverWritten a)

/-- `RX_OTHER` (R119, R164), for `ON_PACKET` on a packet of type 0, 24 to 27 or 29 to 31 and for each of the eight
rows: `UnclassifiedNaluType`, no emission, the accumulator untouched; that the header goes on `rx_diag` on this error
too is R112, the spec's decision D16. -/
def Obligations.OtherTypesIgnored : Prop :=
  (∀ (p : ByteString) (s : State), 13 ≤ p.length → (byteAt p 12).toNat % 32 ∈ [0, 24, 25, 26, 27, 29, 30, 31] →
    exec (.onPacket p) s = .next { s with rx := { s.rx with
      rxStatus := s.rx.rxStatus ++ [.unclassifiedNaluType]
      ended := s.rx.ended ++ [.unclassifiedNaluType]
      rxDiag := s.rx.rxDiag ++ [rtpUnpack p] } }) ∧
  (∀ (h : RtpHeader) (f : BitVec 1) (nri : BitVec 2) (rest : ByteString) (s : State), ∀ x ∈ otherRows h f nri rest,
    exec x.2 s = .next { s with rx := { s.rx with
      rxStatus := s.rx.rxStatus ++ [.unclassifiedNaluType]
      ended := s.rx.ended ++ [.unclassifiedNaluType]
      rxDiag := s.rx.rxDiag ++ [h] } })

/-- The overflow guard (R120, D5; what follows it is marked there as derived): an `ON_PACKET` that ends in
`ReassemblyOverflow` leaves `ACC` and `nalu_out` as they were and `ACC_LEN` 0, and any run of middle and end fragments
after it is dropped: nothing is written or emitted and `ACC_LEN` stays 0. -/
def Obligations.OverflowDropsTheRestOfTheUnit : Prop :=
  ∀ (p : ByteString) (s t : State), exec (.onPacket p) s = .next t →
    t.rx.rxStatus = s.rx.rxStatus ++ [.reassemblyOverflow] →
    t.rx.acc = s.rx.acc ∧ t.rx.naluOut = s.rx.naluOut ∧ t.rx.accLen = 0 ∧
    ∀ qs : List ByteString,
      (∀ q ∈ qs, 14 ≤ q.length ∧ (byteAt q 12).toNat % 32 = 28 ∧ (byteAt q 13).toNat < 128) →
      ∃ t', feed qs t = .next t' ∧ t'.rx.acc = s.rx.acc ∧ t'.rx.naluOut = s.rx.naluOut ∧ t'.rx.accLen = 0 ∧
        t'.rx.rxStatus = t.rx.rxStatus ++ List.replicate qs.length .ok

/-- Every byte of `ACC` outside the stored ones reads as before (R21, R41, R48). A single unit or a start fragment
stores `4 + 1 + len` bytes from address 0; a middle or end fragment stores its body from `ACC_LEN` while assembling;
every other receive class, and a guard that fires, stores nothing. -/
def Obligations.AccumulatorFrame : Prop :=
  ∀ (s t : State) (a : Nat) (h : RtpHeader) (f : BitVec 1) (nri : BitVec 2) (e r : BitVec 1) (ty : BitVec 5)
    (b : ByteString),
    (∀ x ∈ singleRows h f nri b, exec x.2 s = .next t →
      (¬ (5 + b.length ≤ s.rx.maxNalu ∧ a < 5 + b.length) → t.rx.acc.read a = s.rx.acc.read a)) ∧
    (exec (.rxFuStart h f nri e r ty b) s = .next t →
      (¬ (5 + b.length ≤ s.rx.maxNalu ∧ a < 5 + b.length) → t.rx.acc.read a = s.rx.acc.read a)) ∧
    (∀ i ∈ [Instr.rxFuMid h f nri r ty b, Instr.rxFuEnd h f nri r ty b], exec i s = .next t →
      (¬ (s.rx.accLen ≠ 0 ∧ s.rx.accLen + b.length ≤ s.rx.maxNalu ∧ s.rx.accLen ≤ a ∧ a < s.rx.accLen + b.length) →
        t.rx.acc.read a = s.rx.acc.read a)) ∧
    (∀ i ∈ [Instr.rxFuTrunc h f nri, Instr.rxTooShort b], exec i s = .next t → t.rx.acc.read a = s.rx.acc.read a) ∧
    (∀ x ∈ otherRows h f nri b, exec x.2 s = .next t → t.rx.acc.read a = s.rx.acc.read a)

/-- The control flow of the receive side (R23, R122), over all instructions; an `ON_PACKET` counts as the class of its
packet (R70). From `IDLE` to `ASSEMBLING` only in a start fragment that ends in `OK` and emits nothing. From
`ASSEMBLING` to `IDLE` only in `RX_RESET`; in a single packet or an end fragment that ends in `OK` and emits one unit;
or in a single packet, a start, middle or end fragment that ends in `ReassemblyOverflow` and emits nothing. -/
def Obligations.PhaseMovesOnlyAsTheTableSays : Prop :=
  ∀ (i : Instr) (s t : State), exec i s = .next t →
    (s.rx.phase = .idle → t.rx.phase = .assembling →
      (∃ h f nri e r ty body, packetClass i = .rxFuStart h f nri e r ty body) ∧
      t.rx.rxStatus = s.rx.rxStatus ++ [.ok] ∧ t.rx.naluOut = s.rx.naluOut) ∧
    (s.rx.phase = .assembling → t.rx.phase = .idle →
      (∃ n, i = .rxReset n) ∨
      (((∃ h f nri rest, ∃ x ∈ singleRows h f nri rest, packetClass i = x.2) ∨
          (∃ h f nri r ty body, packetClass i = .rxFuEnd h f nri r ty body)) ∧
        t.rx.rxStatus = s.rx.rxStatus ++ [.ok] ∧ ∃ u, t.rx.naluOut = s.rx.naluOut ++ [u]) ∨
      (((∃ h f nri rest, ∃ x ∈ singleRows h f nri rest, packetClass i = x.2) ∨
          (∃ h f nri e r ty body, packetClass i = .rxFuStart h f nri e r ty body) ∨
          (∃ h f nri r ty body, packetClass i = .rxFuMid h f nri r ty body) ∨
          (∃ h f nri r ty body, packetClass i = .rxFuEnd h f nri r ty body)) ∧
        t.rx.rxStatus = s.rx.rxStatus ++ [.reassemblyOverflow] ∧ t.rx.naluOut = s.rx.naluOut))

/-- One `ON_PACKET` puts exactly one status on `rx_status` and at most one unit on `nalu_out`; `rx_diag` gets exactly
the decoded header when the packet has 13 bytes or more, and nothing otherwise; and an `ON_PACKET` that ends in
`PacketTooShort`, `TruncatedInput` or `UnclassifiedNaluType` leaves `ACC`, `ACC_LEN` and `nalu_out` as they were
(R110, R112, R122, R169). -/
def Obligations.OnPacketOutputs : Prop :=
  ∀ (p : ByteString) (s t : State), exec (.onPacket p) s = .next t →
    (∃ k us, t.rx.rxStatus = s.rx.rxStatus ++ [k] ∧ t.rx.naluOut = s.rx.naluOut ++ us ∧ us.length ≤ 1 ∧
      (us ≠ [] → k = .ok) ∧
      (k ∈ [Status.packetTooShort, .truncatedInput, .unclassifiedNaluType] →
        t.rx.acc = s.rx.acc ∧ t.rx.accLen = s.rx.accLen ∧ us = [])) ∧
    t.rx.rxDiag = s.rx.rxDiag ++ (if p.length < 13 then [] else [rtpUnpack p]) ∧
    t.rx.maxNalu = s.rx.maxNalu

/-! ### The packetizer -/

/-- `PACKETIZE` of 5 bytes or fewer (R131; that no counter moves is D11): `PayloadTooSmall`, whatever the frame rate
(R167), and nothing else changes. The premise is the legal configuration of R184. -/
def Obligations.ShortUnitRejected : Prop :=
  ∀ (u : ByteString) (fps : BitVec 32) (s : State), s.tx.maxPayload ≠ 0 → u.length ≤ 5 →
    exec (.packetize u fps) s =
      .next { s with tx := { s.tx with
        txStatus := s.tx.txStatus ++ [.payloadTooSmall], ended := s.tx.ended ++ [.payloadTooSmall] } }

/-- `PACKETIZE` with frame rate 0 on a unit long enough (R138, D10, D11): `BadFrameRate`, and nothing else changes. -/
def Obligations.ZeroFrameRateRejected : Prop :=
  ∀ (u : ByteString) (s : State), s.tx.maxPayload ≠ 0 → 6 ≤ u.length →
    exec (.packetize u 0) s = .next { s with tx := { s.tx with
      txStatus := s.tx.txStatus ++ [.badFrameRate], ended := s.tx.ended ++ [.badFrameRate] } }

/-- `PACKETIZE` under `MAX_PAYLOAD = 0` has no meaning and is refused by name (R184, D4, U5). -/
def Obligations.ZeroMaxPayloadRefused : Prop :=
  ∀ (u : ByteString) (fps : BitVec 32) (s : State), s.tx.maxPayload = 0 →
    exec (.packetize u fps) s = .refused .illegalMaxPayload

/-- `TX_SINGLE` in `PACKETIZE` (R135): an accepted unit with `P <= MAX_PAYLOAD` goes out as exactly one packet, the
header with `M = 1`, the incremented `SEQ`, the advanced `TS` and `SSRC`, then `body`; `12 + N` bytes. Status `OK`;
nothing else changes. `M = 1` here is the spec's decision D13 (R134), the timestamp's wrap D9 (R151), and `P = X = CC
= 0` D12 (R132). -/
def Obligations.SmallUnitSentWhole : Prop :=
  ∀ (u : ByteString) (fps : BitVec 32) (s : State), s.tx.maxPayload ≠ 0 → 6 ≤ u.length → fps ≠ 0 →
    u.length - 5 ≤ s.tx.maxPayload.toNat →
    ∃ (seq : BitVec 16) (ts : BitVec 32) (pkt : ByteString),
      exec (.packetize u fps) s = .next { s with tx := { s.tx with
        seq := seq
        ts := ts
        pktOut := s.tx.pktOut ++ [pkt]
        txStatus := s.tx.txStatus ++ [.ok]
        ended := s.tx.ended ++ [.ok] } } ∧
      seq.toNat = (s.tx.seq.toNat + 1) % 65536 ∧
      ts.toNat = (s.tx.ts.toNat + 90000 / fps.toNat) % 2 ^ 32 ∧
      pkt = rtpPack ⟨2, 0, 0, 0, 1, 96, seq, ts, s.tx.ssrc⟩ ++ u.drop 4 ∧
      pkt.length = 12 + (u.length - 4)

/-- `TX_FU` (R137): an accepted unit with `P > MAX_PAYLOAD` goes out as `ceil(P / MAX_PAYLOAD)` fragments in order,
fragment `i` being `fragmentPacket` of the advanced `TS` (the FU indicator with type 28, the FU header with `S` on the
first and `E` on the last, `M` on the last, the `i`-th piece of `body[1:]`); `SEQ` moves by their number modulo 65536.
Status `OK`; nothing else changes. The number of fragments is R136's, the threshold R133's; the timestamp's wrap is
the spec's decision D9 (R151), `M` by the last packet D13 (R134), and `P = X = CC = 0` D12 (R132). -/
def Obligations.LargeUnitFragmented : Prop :=
  ∀ (u : ByteString) (fps : BitVec 32) (s : State), s.tx.maxPayload ≠ 0 → 6 ≤ u.length → fps ≠ 0 →
    s.tx.maxPayload.toNat < u.length - 5 →
    ∃ (seq : BitVec 16) (ts : BitVec 32),
      exec (.packetize u fps) s = .next { s with tx := { s.tx with
        seq := seq
        ts := ts
        pktOut := s.tx.pktOut ++
          (List.range ((u.length - 5 + s.tx.maxPayload.toNat - 1) / s.tx.maxPayload.toNat)).map
            (fragmentPacket s.tx.seq ts s.tx.ssrc (u.drop 4) s.tx.maxPayload.toNat)
        txStatus := s.tx.txStatus ++ [.ok]
        ended := s.tx.ended ++ [.ok] } } ∧
      seq.toNat = (s.tx.seq.toNat + (u.length - 5 + s.tx.maxPayload.toNat - 1) / s.tx.maxPayload.toNat) % 65536 ∧
      ts.toNat = (s.tx.ts.toNat + 90000 / fps.toNat) % 2 ^ 32

/-- Counts and lengths of one accepted call (R142, marked there as derived): one packet of `L + 8` bytes, or `ceil(P /
MAX_PAYLOAD)` packets, all but the last of `14 + MAX_PAYLOAD` bytes, `P + 14 * fragCount` bytes in all. -/
def Obligations.PacketCountsAndLengths : Prop :=
  ∀ (u : ByteString) (fps : BitVec 32) (s : State), s.tx.maxPayload ≠ 0 → 6 ≤ u.length → fps ≠ 0 →
    ∃ t ps, exec (.packetize u fps) s = .next t ∧ t.tx.pktOut = s.tx.pktOut ++ ps ∧
      (u.length - 5 ≤ s.tx.maxPayload.toNat → ps.map List.length = [u.length + 8]) ∧
      (s.tx.maxPayload.toNat < u.length - 5 →
        2 ≤ ps.length ∧
        ps.length = (u.length - 5 + s.tx.maxPayload.toNat - 1) / s.tx.maxPayload.toNat ∧
        (∀ q ∈ ps.dropLast, q.length = 14 + s.tx.maxPayload.toNat) ∧
        (ps.map List.length).sum = u.length - 5 + 14 * ps.length)

/-- Markers, sequence numbers and timestamps of one accepted call (R132, R134 with D13, R154): byte 0 of every packet
is `80`; byte 1 is `E0` on the last packet and `60` on every other; packet `j` carries the sequence number `SEQ + j +
1` modulo 65536, and all carry the one advanced timestamp and the instance's `SSRC`. -/
def Obligations.MarkerOnTheLastPacketOnly : Prop :=
  ∀ (u : ByteString) (fps : BitVec 32) (s t : State) (ps : List ByteString), s.tx.maxPayload ≠ 0 → 6 ≤ u.length →
    fps ≠ 0 → exec (.packetize u fps) s = .next t → t.tx.pktOut = s.tx.pktOut ++ ps →
    ∀ (j : Nat) (hj : j < ps.length),
      byteAt ps[j] 0 = 0x80 ∧ byteAt ps[j] 1 = (if j + 1 = ps.length then 0xE0 else 0x60) ∧
      (be16 ps[j] 2).toNat = (s.tx.seq.toNat + j + 1) % 65536 ∧
      be32 ps[j] 4 = t.tx.ts ∧ be32 ps[j] 8 = s.tx.ssrc ∧
      t.tx.seq.toNat = (s.tx.seq.toNat + ps.length) % 65536

/-- `PACKETIZE` is `TS_ADVANCE` and then its packets one by one (R130, R139; the packet kinds as instructions are log
entry 11): one `TX_SINGLE`, or `TX_FU_START`, `TX_FU_MID` as often as needed and `TX_FU_END`; then the one status `OK`
of the call, where the micro-operations issued one by one end with a status each (log entry 19). -/
def Obligations.PacketizeIsItsMicroOperations : Prop :=
  ∀ (u : ByteString) (fps : BitVec 32) (s : State), s.tx.maxPayload ≠ 0 → 6 ≤ u.length → fps ≠ 0 →
    let body := u.drop 4
    let b0 := byteAt body 0
    let m := s.tx.maxPayload.toNat
    let count := (u.length - 5 + m - 1) / m
    let piece := fun i : Nat => ((body.drop 1).drop (i * m)).take m
    let packets : List Instr :=
      if u.length - 5 ≤ m then [.txSingle (nalF b0) (nalNri b0) (nalType b0) (body.drop 1)]
      else (List.range count).map (fun i =>
        if i = 0 then .txFuStart (nalF b0) (nalNri b0) (nalType b0) (piece i)
        else if i = count - 1 then .txFuEnd (nalF b0) (nalNri b0) (nalType b0) (piece i)
        else .txFuMid (nalF b0) (nalNri b0) (nalType b0) (piece i))
    ∃ t, execAll (.tsAdvance fps :: packets) s = .next t ∧
      exec (.packetize u fps) s = .next { t with
        tx := { t.tx with txStatus := s.tx.txStatus ++ [.ok], ended := s.tx.ended ++ [.ok] } }

/-- The four outbound packet kinds (R71, R135, R137; as instructions, log entry 11): each steps `SEQ` by one modulo
65536 and emits one packet, the header with the stepped `SEQ`, `TS`, `SSRC` and the kind's `M`, then for a single
packet the header byte, for a fragment the FU indicator and the FU header `S*128 + E*64 + type`, then the bytes that
follow. It ends with `OK` (R31, R160; given to its caller, log entry 19). Nothing else changes. This is said of every
slice; where `PACKETIZE` never builds that slice (empty, or longer than `MAX_PAYLOAD`: R68, R136) it is the model's choice,
log entry 11. -/
def Obligations.PacketKindsBuildTheirPacket : Prop :=
  ∀ (f : BitVec 1) (nri : BitVec 2) (ty : BitVec 5) (b : ByteString) (s : State),
    ∃ seq : BitVec 16, seq.toNat = (s.tx.seq.toNat + 1) % 65536 ∧
      (exec (.txSingle f nri ty b) s = .next { s with tx := { s.tx with
        seq := seq
        ended := s.tx.ended ++ [.ok]
        pktOut := s.tx.pktOut ++ [rtpPack ⟨2, 0, 0, 0, 1, 96, seq, s.tx.ts, s.tx.ssrc⟩ ++ nalByte f nri ty :: b] } }) ∧
      (exec (.txFuStart f nri ty b) s = .next { s with tx := { s.tx with
        seq := seq
        ended := s.tx.ended ++ [.ok]
        pktOut := s.tx.pktOut ++ [rtpPack ⟨2, 0, 0, 0, 0, 96, seq, s.tx.ts, s.tx.ssrc⟩ ++
          nalByte f nri 28 :: BitVec.ofNat 8 (128 + ty.toNat) :: b] } }) ∧
      (exec (.txFuMid f nri ty b) s = .next { s with tx := { s.tx with
        seq := seq
        ended := s.tx.ended ++ [.ok]
        pktOut := s.tx.pktOut ++ [rtpPack ⟨2, 0, 0, 0, 0, 96, seq, s.tx.ts, s.tx.ssrc⟩ ++
          nalByte f nri 28 :: BitVec.ofNat 8 ty.toNat :: b] } }) ∧
      (exec (.txFuEnd f nri ty b) s = .next { s with tx := { s.tx with
        seq := seq
        ended := s.tx.ended ++ [.ok]
        pktOut := s.tx.pktOut ++ [rtpPack ⟨2, 0, 0, 0, 1, 96, seq, s.tx.ts, s.tx.ssrc⟩ ++
          nalByte f nri 28 :: BitVec.ofNat 8 (64 + ty.toNat) :: b] } })

/-! ### The sequence-counter engine, reset and the host -/

/-- `SEQ_NEXT` (R150): `SEQ <- (SEQ + 1) mod 65536`, and nothing else changes but the record of given statuses, of
which `EveryOperationEndsWithOneStatus` speaks. -/
def Obligations.SeqNextStepsTheSequenceNumber : Prop :=
  ∀ s : State, ∃ (seq : BitVec 16) (ended : List Status),
    exec .seqNext s = .next { s with tx := { s.tx with seq := seq, ended := ended } } ∧
    seq.toNat = (s.tx.seq.toNat + 1) % 65536

/-- `TS_ADVANCE(fps)` (R151; the silent wrap is D9): `TS <- (TS + 90000 div fps) mod 2^32`, ended with `OK` (R31,
R160; given to its caller, log entry 19), and nothing else changes. With frame rate 0, which its caller has rejected,
the model ends it with `BadFrameRate` and leaves `TS` as it was: the model's choice, log entry 17. -/
def Obligations.TsAdvanceAddsTheTick : Prop :=
  ∀ (fps : BitVec 32) (s : State),
    (fps ≠ 0 → ∃ ts : BitVec 32,
      exec (.tsAdvance fps) s = .next { s with tx := { s.tx with ts := ts, ended := s.tx.ended ++ [.ok] } } ∧
      ts.toNat = (s.tx.ts.toNat + 90000 / fps.toNat) % 2 ^ 32) ∧
    (fps = 0 → exec (.tsAdvance fps) s = .next { s with tx := { s.tx with ended := s.tx.ended ++ [.badFrameRate] } })

/-- `RX_RESET` (R180, D25): `MAX_NALU` is the operand, `ACC_LEN` is 0, the bytes of `ACC` that the new capacity has
are left as they are (beyond it there are none: log entry 6), it ends with `OK` (R31, R160; place: log entry 19), and
nothing else changes; no emission. -/
def Obligations.RxResetEmptiesTheAccumulator : Prop :=
  ∀ (n : Nat) (s : State), ∃ acc : Memory,
    exec (.rxReset n) s =
      .next { s with rx := { s.rx with acc := acc, accLen := 0, maxNalu := n, ended := s.rx.ended ++ [.ok] } } ∧
    ∀ a, acc.read a = if a < n then s.rx.acc.read a else none

/-- `TX_RESET` (R181): `MAX_PAYLOAD`, `SSRC`, `SEQ` and `TS` are the operands, it ends with `OK` (R31, R160; place:
log entry 19), and nothing else changes. -/
def Obligations.TxResetLoadsTheCounters : Prop :=
  ∀ (mp : BitVec 16) (c : BitVec 32) (q : BitVec 16) (ts : BitVec 32) (s : State),
    exec (.txReset mp c q ts) s = .next { s with
      tx := { s.tx with maxPayload := mp, ssrc := c, seq := q, ts := ts, ended := s.tx.ended ++ [.ok] } }

/-- The state after reset (R33): `ACC_LEN` 0, phase `IDLE`, no byte of `ACC` written, every output channel empty, no
status given, nothing asked or issued. `SEQ` and `TS` are the spec's defaults (D6, D7; log entry 1); the configuration
fields hold the model's values (log entries 2 to 4), about which nothing is said but that they are legal (R184). -/
def Obligations.ResetIsTheConstructedState : Prop :=
  State.reset.rx.accLen = 0 ∧ State.reset.rx.phase = .idle ∧ (∀ a, State.reset.rx.acc.read a = none) ∧
  State.reset.rx.naluOut = [] ∧ State.reset.rx.rxStatus = [] ∧ State.reset.rx.rxDiag = [] ∧
  State.reset.tx.pktOut = [] ∧ State.reset.tx.txStatus = [] ∧ State.reset.codecOut = [] ∧ State.reset.pending = [] ∧
  State.reset.rx.ended = [] ∧ State.reset.tx.ended = [] ∧ State.reset.codecEnded = [] ∧ State.reset.micro = [] ∧
  State.reset.tx.seq = 0 ∧ State.reset.tx.ts = 0 ∧
  State.reset.tx.maxPayload ≠ 0 ∧ 5 ≤ State.reset.rx.maxNalu

/-- A host write of `MAX_PAYLOAD` (R29, R51, R188; taken from the queue between operations, log entry 7) changes that
field alone (no operation has begun and not ended: nothing stands in `micro`, log entry 18), and the `PACKETIZE` that
follows splits by the new value. -/
def Obligations.MaxPayloadWriteTakesEffectNext : Prop :=
  ∀ (s : State) (v : BitVec 16) (rest : List Request), s.micro = [] → s.pending = .writeMaxPayload v :: rest →
    step s = .next { s with tx := { s.tx with maxPayload := v }, pending := rest } ∧
    ∀ (u : ByteString) (fps : BitVec 32), v ≠ 0 → 6 ≤ u.length → fps ≠ 0 →
      ∃ t t', step s = .next t ∧ exec (.packetize u fps) t = .next t' ∧
        t'.tx.pktOut.length = s.tx.pktOut.length +
          (if u.length - 5 ≤ v.toNat then 1 else (u.length - 5 + v.toNat - 1) / v.toNat)

/-! ### The whole machine -/

/-- `SSRC` and `MAX_PAYLOAD` are written by no operation but `TX_RESET`, and `MAX_NALU` by none but `RX_RESET` (R27,
R29, R152). -/
def Obligations.ConfigurationWrittenByResetOnly : Prop :=
  ∀ (i : Instr) (s t : State), exec i s = .next t →
    ((∀ mp c q ts, i ≠ .txReset mp c q ts) → t.tx.ssrc = s.tx.ssrc ∧ t.tx.maxPayload = s.tx.maxPayload) ∧
    ((∀ n, i ≠ .rxReset n) → t.rx.maxNalu = s.rx.maxNalu)

/-- The agents share nothing (R11, R20, R40, R102, R153): an instruction changes its own agent's part of the state
only, the queues not at all; what it does to an instance depends on nothing but that instance; and a codec function
gives one result and one status, the same in every state: it reads no state of any instance and nothing it gave
before. -/
def Obligations.AgentsShareNoState : Prop :=
  (∀ (i : Instr) (s t : State), exec i s = .next t →
    t.pending = s.pending ∧ t.micro = s.micro ∧
    (agentOf i ≠ .rx → t.rx = s.rx) ∧ (agentOf i ≠ .tx → t.tx = s.tx) ∧
    (agentOf i ≠ .codec → t.codecOut = s.codecOut ∧ t.codecEnded = s.codecEnded)) ∧
  (∀ (i : Instr) (s s' t t' : State), exec i s = .next t → exec i s' = .next t' →
    (s.rx = s'.rx → t.rx = t'.rx) ∧ (s.tx = s'.tx → t.tx = t'.tx)) ∧
  (∀ i : Instr, agentOf i = .codec → ∃ (c : CodecResult) (k : Status), ∀ s : State,
    exec i s = .next { s with codecOut := s.codecOut ++ [c], codecEnded := s.codecEnded ++ [k] })

/-- Each operation ends with one status, its output to its caller (R31, R160, the spec's decision D26; where the model
keeps it is log entry 19). For an `ON_PACKET` and a receive class the same status goes on `rx_status`, for a
`PACKETIZE` on `tx_status`, and no other operation puts anything there (R30); resets, packet kinds and `SEQ_NEXT` end
with `OK`; a codec function ends with `TruncatedInput` when that is what it gives, else with `OK`. -/
def Obligations.EveryOperationEndsWithOneStatus : Prop :=
  ∀ (i : Instr) (s t : State), exec i s = .next t → ∃ k : Status,
    (agentOf i = .rx →
      t.rx.ended = s.rx.ended ++ [k] ∧ t.rx.rxStatus = s.rx.rxStatus ++ (if i.row = 62 then [] else [k]) ∧
      (i.row = 62 → k = .ok) ∧ k ∉ [Status.payloadTooSmall, .badFrameRate]) ∧
    (agentOf i = .tx →
      t.tx.ended = s.tx.ended ++ [k] ∧ t.tx.txStatus = s.tx.txStatus ++ (if i.row = 59 then [k] else []) ∧
      (i.row ∈ [36, 37, 38, 39, 60, 63] → k = .ok) ∧ k ∈ [Status.ok, .payloadTooSmall, .badFrameRate]) ∧
    (agentOf i = .codec →
      t.codecEnded = s.codecEnded ++ [k] ∧ k ∈ [Status.ok, .truncatedInput] ∧
      ∃ c, t.codecOut = s.codecOut ++ [c] ∧ (c = .raised .truncatedInput ↔ k = .truncatedInput))

/-- The engine has a single writer, the packetizer, and the host cannot write the counters except by reset (R153,
R171). While the packetizer has issued nothing that still stands (so it is in every run from reset, log entry 18), a
step leaves it so, and it moves `SEQ` or `TS` only when the host's oldest request is a `PACKETIZE` or a `TX_RESET`; a
message of the host that spells a packet kind, `SEQ_NEXT` or `TS_ADVANCE` is refused by name and moves nothing. -/
def Obligations.HostCannotMoveTheCounters : Prop :=
  (∀ s t : State, s.micro = [] → step s = .next t → t.micro = [] ∧
    (t.tx.seq ≠ s.tx.seq ∨ t.tx.ts ≠ s.tx.ts → ∃ fr rest, s.pending = .message fr :: rest ∧
      ((∃ u fps, decode fr = .ok (.packetize u fps)) ∨ (∃ mp c q ts, decode fr = .ok (.txReset mp c q ts))))) ∧
  (∀ (s : State) (fr : Frame) (rest : List Request) (i : Instr), s.micro = [] → s.pending = .message fr :: rest →
    decode fr = .ok i → i.row ∈ [36, 37, 38, 39, 60, 61] → step s = .refused .wrongIssuer)

/-- The output channels, the codec's results and the statuses given are append-only (R40, R187): a step adds to them
and never takes back or alters what was handed over. -/
def Obligations.OutputsOnlyGrow : Prop :=
  ∀ s t : State, step s = .next t → s.Extends t

/-- The invariant holds right after reset. -/
def Obligations.ResetSatisfiesTheInvariant : Prop := State.reset.Inv

/-- Every step keeps the invariant (R21, R22, R41, R118, R132; properties 3 and 4 of 95_test_vectors.md part 4): the
accumulator's memory stays canonical and within `MAX_NALU`; `ACC_LEN` is 0 or from 5 to `MAX_NALU`; while assembling
`ACC` begins with the start code and every byte below `ACC_LEN` has a value; every emitted unit has at least 5 bytes
and begins with the start code; every emitted packet begins `80 E0` or `80 60`. -/
def Obligations.StepKeepsTheInvariant : Prop :=
  ∀ s t : State, s.Inv → step s = .next t → t.Inv

/-- Every operation ends (R169, R192): from a state with the invariant a step never faults, and it is refused only for
a message that spells no operation, one that its sender may not issue (R153, R171), or a `PACKETIZE` under the illegal
`MAX_PAYLOAD = 0` (R184). -/
def Obligations.EveryOperationEnds : Prop :=
  ∀ s : State, s.Inv →
    (∃ t, step s = .next t) ∨
    (∃ who fr e, s.nextFrame? = some (who, fr) ∧ decode fr = .error e ∧ step s = .refused (.badFrame e)) ∨
    (∃ who fr i, s.nextFrame? = some (who, fr) ∧ decode fr = .ok i ∧ issuerOf i ≠ who ∧
      step s = .refused .wrongIssuer) ∨
    (∃ fr u fps, s.nextFrame? = some (.host, fr) ∧ decode fr = .ok (.packetize u fps) ∧ s.tx.maxPayload = 0 ∧
      step s = .refused .illegalMaxPayload)

/-- After a start fragment or a single packet the block goes on as if its accumulator had been empty (R121, marked
there as derived): two receive instances that differ in `ACC` and `ACC_LEN` only emit the same and end with the same
`ACC_LEN`, and their bytes below it read the same. -/
def Obligations.NewUnitForgetsTheOldOne : Prop :=
  ∀ (p : ByteString) (s s' t t' : State), 13 ≤ p.length →
    (1 ≤ (byteAt p 12).toNat % 32 ∧ (byteAt p 12).toNat % 32 ≤ 23 ∨
      14 ≤ p.length ∧ (byteAt p 12).toNat % 32 = 28 ∧ 128 ≤ (byteAt p 13).toNat) →
    s'.rx = { s.rx with acc := s'.rx.acc, accLen := s'.rx.accLen } →
    exec (.onPacket p) s = .next t → exec (.onPacket p) s' = .next t' →
    t'.rx = { t.rx with acc := t'.rx.acc } ∧ ∀ a < t.rx.accLen, t'.rx.acc.read a = t.rx.acc.read a

/-- The round trip (R140 with the conditions it names, property 1 of 95_test_vectors.md part 4, stronger in one point:
the receiver's accumulator may hold anything, R121). A unit in 4-byte start-code form, of at least 6 bytes, sent by a
legally configured transmitter, and fragmented or of header type 1 to 23, goes out as packets; any receiver whose
`MAX_NALU` is at least the unit's length, given those packets in order, ends each in `OK`, emits nothing before the
last packet, and at the last emits exactly that unit, byte for byte, with its accumulator empty. -/
def Obligations.PacketizeThenDepacketizeGivesTheUnit : Prop :=
  ∀ (u : ByteString) (fps : BitVec 32) (s : State), 6 ≤ u.length → u.take 4 = [0, 0, 0, 1] → fps ≠ 0 →
    s.tx.maxPayload ≠ 0 →
    (s.tx.maxPayload.toNat < u.length - 5 ∨ 1 ≤ (byteAt u 4).toNat % 32 ∧ (byteAt u 4).toNat % 32 ≤ 23) →
    ∃ t ps, exec (.packetize u fps) s = .next t ∧ t.tx.pktOut = s.tx.pktOut ++ ps ∧ ps ≠ [] ∧
      ∀ r : State, u.length ≤ r.rx.maxNalu →
        ∃ r1 r2, feed ps.dropLast r = .next r1 ∧ r1.rx.naluOut = r.rx.naluOut ∧
          feed ps r = .next r2 ∧ r2.rx.naluOut = r.rx.naluOut ++ [u] ∧ r2.rx.accLen = 0 ∧
          r2.rx.rxStatus = r.rx.rxStatus ++ List.replicate ps.length .ok

/-- Instances side by side (R47, R49, R170; the list of instances is log entry 20): a step of instance `k` puts there the
state that `step` gives, or moves nothing when there is no such instance; it leaves every other as it was, also one whose
own next step would be refused or would fault; and the steps of two different instances that both answer a next state can
be taken in either order with the same result. -/
def Obligations.InstancesAreIndependent : Prop :=
  (∀ (k : Nat) (sys a : System), System.stepAt k sys = .next a → a.length = sys.length ∧
    (∀ j, j ≠ k → a[j]? = sys[j]?) ∧
    (sys[k]? = none → a = sys) ∧ ∀ s, sys[k]? = some s → ∃ s', step s = .next s' ∧ a[k]? = some s') ∧
  (∀ (k : Nat) (sys : System) (s s' : State), sys[k]? = some s → step s = .next s' →
    ∃ a, System.stepAt k sys = .next a ∧ a[k]? = some s') ∧
  (∀ (k j : Nat) (sys a b : System), k ≠ j → System.stepAt k sys = .next a → System.stepAt j sys = .next b →
    a[j]? = sys[j]? ∧ b[k]? = sys[k]? ∧ ∃ c, System.stepAt j a = .next c ∧ System.stepAt k b = .next c)

/-- Dropping an instance (R182, R193): the others are as they were, nothing is emitted and nothing is owed.
Constructing one (R33, R180, R181): the others are as they were, and one more stands behind them, with the
configuration it was given, an empty accumulator, and nothing emitted, given or asked. Instances as pairs of a
transmitter and a receiver in a list, and that messages not yet taken go with a dropped instance, are the model's: log
entry 20. -/
def Obligations.DropAndConstruct : Prop :=
  ∀ (k : Nat) (sys : System) (n : Nat) (mp : BitVec 16) (c : BitVec 32) (q : BitVec 16) (ts : BitVec 32),
    (∀ j, (System.drop k sys)[j]? = if j < k then sys[j]? else sys[j + 1]?) ∧
    (System.construct n mp c q ts sys).length = sys.length + 1 ∧
    (∀ j < sys.length, (System.construct n mp c q ts sys)[j]? = sys[j]?) ∧
    ∃ s, (System.construct n mp c q ts sys)[sys.length]? = some s ∧ s.Inv ∧ s =
      { rx := { acc := [], accLen := 0, maxNalu := n, naluOut := [], rxStatus := [], rxDiag := [], ended := [] }
        tx := { seq := q, ts := ts, ssrc := c, maxPayload := mp, pktOut := [], txStatus := [], ended := [] }
        codecOut := [], codecEnded := [], pending := [], micro := [] }
end

