-- ==== Sys2Proof/Laws/State.lean ====
section
/-! SUPPORT. One lemma per field per update of the state, each true by `rfl`, so that no proof unfolds a record update. -/

namespace Sys2Proof.Machine

/-! ### Receive instance -/

@[simp] theorem Rx.done_acc (k : Status) (r : Rx) : (r.done k).acc = r.acc := rfl
@[simp] theorem Rx.done_accLen (k : Status) (r : Rx) : (r.done k).accLen = r.accLen := rfl
@[simp] theorem Rx.done_maxNalu (k : Status) (r : Rx) : (r.done k).maxNalu = r.maxNalu := rfl
@[simp] theorem Rx.done_naluOut (k : Status) (r : Rx) : (r.done k).naluOut = r.naluOut := rfl
@[simp] theorem Rx.done_rxStatus (k : Status) (r : Rx) : (r.done k).rxStatus = r.rxStatus := rfl
@[simp] theorem Rx.done_rxDiag (k : Status) (r : Rx) : (r.done k).rxDiag = r.rxDiag := rfl
@[simp] theorem Rx.done_ended (k : Status) (r : Rx) : (r.done k).ended = r.ended ++ [k] := rfl
@[simp] theorem Rx.finish_acc (k : Status) (r : Rx) : (r.finish k).acc = r.acc := rfl
@[simp] theorem Rx.finish_accLen (k : Status) (r : Rx) : (r.finish k).accLen = r.accLen := rfl
@[simp] theorem Rx.finish_maxNalu (k : Status) (r : Rx) : (r.finish k).maxNalu = r.maxNalu := rfl
@[simp] theorem Rx.finish_naluOut (k : Status) (r : Rx) : (r.finish k).naluOut = r.naluOut := rfl
@[simp] theorem Rx.finish_rxStatus (k : Status) (r : Rx) : (r.finish k).rxStatus = r.rxStatus ++ [k] := rfl
@[simp] theorem Rx.finish_rxDiag (k : Status) (r : Rx) : (r.finish k).rxDiag = r.rxDiag := rfl
@[simp] theorem Rx.finish_ended (k : Status) (r : Rx) : (r.finish k).ended = r.ended ++ [k] := rfl
@[simp] theorem Rx.setAccLen_acc (n : Nat) (r : Rx) : (r.setAccLen n).acc = r.acc := rfl
@[simp] theorem Rx.setAccLen_accLen (n : Nat) (r : Rx) : (r.setAccLen n).accLen = n := rfl
@[simp] theorem Rx.setAccLen_maxNalu (n : Nat) (r : Rx) : (r.setAccLen n).maxNalu = r.maxNalu := rfl
@[simp] theorem Rx.setAccLen_naluOut (n : Nat) (r : Rx) : (r.setAccLen n).naluOut = r.naluOut := rfl
@[simp] theorem Rx.setAccLen_rxStatus (n : Nat) (r : Rx) : (r.setAccLen n).rxStatus = r.rxStatus := rfl
@[simp] theorem Rx.setAccLen_rxDiag (n : Nat) (r : Rx) : (r.setAccLen n).rxDiag = r.rxDiag := rfl
@[simp] theorem Rx.setAccLen_ended (n : Nat) (r : Rx) : (r.setAccLen n).ended = r.ended := rfl
@[simp] theorem Rx.writeAcc_acc (a : Nat) (b : ByteString) (r : Rx) : (r.writeAcc a b).acc = r.acc.writeBytes a b := rfl
@[simp] theorem Rx.writeAcc_accLen (a : Nat) (b : ByteString) (r : Rx) : (r.writeAcc a b).accLen = r.accLen := rfl
@[simp] theorem Rx.writeAcc_maxNalu (a : Nat) (b : ByteString) (r : Rx) : (r.writeAcc a b).maxNalu = r.maxNalu := rfl
@[simp] theorem Rx.writeAcc_naluOut (a : Nat) (b : ByteString) (r : Rx) : (r.writeAcc a b).naluOut = r.naluOut := rfl
@[simp] theorem Rx.writeAcc_rxStatus (a : Nat) (b : ByteString) (r : Rx) : (r.writeAcc a b).rxStatus = r.rxStatus := rfl
@[simp] theorem Rx.writeAcc_rxDiag (a : Nat) (b : ByteString) (r : Rx) : (r.writeAcc a b).rxDiag = r.rxDiag := rfl
@[simp] theorem Rx.writeAcc_ended (a : Nat) (b : ByteString) (r : Rx) : (r.writeAcc a b).ended = r.ended := rfl
@[simp] theorem Rx.pushDiag_acc (h : RtpHeader) (r : Rx) : (r.pushDiag h).acc = r.acc := rfl
@[simp] theorem Rx.pushDiag_accLen (h : RtpHeader) (r : Rx) : (r.pushDiag h).accLen = r.accLen := rfl
@[simp] theorem Rx.pushDiag_maxNalu (h : RtpHeader) (r : Rx) : (r.pushDiag h).maxNalu = r.maxNalu := rfl
@[simp] theorem Rx.pushDiag_naluOut (h : RtpHeader) (r : Rx) : (r.pushDiag h).naluOut = r.naluOut := rfl
@[simp] theorem Rx.pushDiag_rxStatus (h : RtpHeader) (r : Rx) : (r.pushDiag h).rxStatus = r.rxStatus := rfl
@[simp] theorem Rx.pushDiag_rxDiag (h : RtpHeader) (r : Rx) : (r.pushDiag h).rxDiag = r.rxDiag ++ [h] := rfl
@[simp] theorem Rx.pushDiag_ended (h : RtpHeader) (r : Rx) : (r.pushDiag h).ended = r.ended := rfl
@[simp] theorem Rx.pushNalu_acc (u : ByteString) (r : Rx) : (r.pushNalu u).acc = r.acc := rfl
@[simp] theorem Rx.pushNalu_accLen (u : ByteString) (r : Rx) : (r.pushNalu u).accLen = r.accLen := rfl
@[simp] theorem Rx.pushNalu_maxNalu (u : ByteString) (r : Rx) : (r.pushNalu u).maxNalu = r.maxNalu := rfl
@[simp] theorem Rx.pushNalu_naluOut (u : ByteString) (r : Rx) : (r.pushNalu u).naluOut = r.naluOut ++ [u] := rfl
@[simp] theorem Rx.pushNalu_rxStatus (u : ByteString) (r : Rx) : (r.pushNalu u).rxStatus = r.rxStatus := rfl
@[simp] theorem Rx.pushNalu_rxDiag (u : ByteString) (r : Rx) : (r.pushNalu u).rxDiag = r.rxDiag := rfl
@[simp] theorem Rx.pushNalu_ended (u : ByteString) (r : Rx) : (r.pushNalu u).ended = r.ended := rfl
@[simp] theorem Rx.append_acc (body : ByteString) (r : Rx) : (r.append body).acc = r.acc.writeBytes r.accLen body := rfl
@[simp] theorem Rx.append_accLen (body : ByteString) (r : Rx) : (r.append body).accLen = r.accLen + body.length := rfl
@[simp] theorem Rx.append_maxNalu (body : ByteString) (r : Rx) : (r.append body).maxNalu = r.maxNalu := rfl
@[simp] theorem Rx.append_naluOut (body : ByteString) (r : Rx) : (r.append body).naluOut = r.naluOut := rfl
@[simp] theorem Rx.append_rxStatus (body : ByteString) (r : Rx) : (r.append body).rxStatus = r.rxStatus := rfl
@[simp] theorem Rx.append_rxDiag (body : ByteString) (r : Rx) : (r.append body).rxDiag = r.rxDiag := rfl
@[simp] theorem Rx.append_ended (body : ByteString) (r : Rx) : (r.append body).ended = r.ended := rfl
@[simp] theorem Rx.startUnit_acc (hdr : Byte) (b : ByteString) (r : Rx) : (r.startUnit hdr b).acc = ((r.acc.writeBytes 0 Config.startCode).writeBytes 4 [hdr]).writeBytes 5 b := rfl
@[simp] theorem Rx.startUnit_accLen (hdr : Byte) (b : ByteString) (r : Rx) : (r.startUnit hdr b).accLen = 5 + b.length := rfl
@[simp] theorem Rx.startUnit_maxNalu (hdr : Byte) (b : ByteString) (r : Rx) : (r.startUnit hdr b).maxNalu = r.maxNalu := rfl
@[simp] theorem Rx.startUnit_naluOut (hdr : Byte) (b : ByteString) (r : Rx) : (r.startUnit hdr b).naluOut = r.naluOut := rfl
@[simp] theorem Rx.startUnit_rxStatus (hdr : Byte) (b : ByteString) (r : Rx) : (r.startUnit hdr b).rxStatus = r.rxStatus := rfl
@[simp] theorem Rx.startUnit_rxDiag (hdr : Byte) (b : ByteString) (r : Rx) : (r.startUnit hdr b).rxDiag = r.rxDiag := rfl
@[simp] theorem Rx.startUnit_ended (hdr : Byte) (b : ByteString) (r : Rx) : (r.startUnit hdr b).ended = r.ended := rfl
@[simp] theorem Rx.construct_acc (n : Nat) (r : Rx) : (r.construct n).acc = r.acc.below n := rfl
@[simp] theorem Rx.construct_accLen (n : Nat) (r : Rx) : (r.construct n).accLen = 0 := rfl
@[simp] theorem Rx.construct_maxNalu (n : Nat) (r : Rx) : (r.construct n).maxNalu = n := rfl
@[simp] theorem Rx.construct_naluOut (n : Nat) (r : Rx) : (r.construct n).naluOut = r.naluOut := rfl
@[simp] theorem Rx.construct_rxStatus (n : Nat) (r : Rx) : (r.construct n).rxStatus = r.rxStatus := rfl
@[simp] theorem Rx.construct_rxDiag (n : Nat) (r : Rx) : (r.construct n).rxDiag = r.rxDiag := rfl
@[simp] theorem Rx.construct_ended (n : Nat) (r : Rx) : (r.construct n).ended = r.ended := rfl

/-! ### Transmit instance -/

@[simp] theorem Tx.done_seq (k : Status) (t : Tx) : (t.done k).seq = t.seq := rfl
@[simp] theorem Tx.done_ts (k : Status) (t : Tx) : (t.done k).ts = t.ts := rfl
@[simp] theorem Tx.done_ssrc (k : Status) (t : Tx) : (t.done k).ssrc = t.ssrc := rfl
@[simp] theorem Tx.done_maxPayload (k : Status) (t : Tx) : (t.done k).maxPayload = t.maxPayload := rfl
@[simp] theorem Tx.done_pktOut (k : Status) (t : Tx) : (t.done k).pktOut = t.pktOut := rfl
@[simp] theorem Tx.done_txStatus (k : Status) (t : Tx) : (t.done k).txStatus = t.txStatus := rfl
@[simp] theorem Tx.done_ended (k : Status) (t : Tx) : (t.done k).ended = t.ended ++ [k] := rfl
@[simp] theorem Tx.finish_seq (k : Status) (t : Tx) : (t.finish k).seq = t.seq := rfl
@[simp] theorem Tx.finish_ts (k : Status) (t : Tx) : (t.finish k).ts = t.ts := rfl
@[simp] theorem Tx.finish_ssrc (k : Status) (t : Tx) : (t.finish k).ssrc = t.ssrc := rfl
@[simp] theorem Tx.finish_maxPayload (k : Status) (t : Tx) : (t.finish k).maxPayload = t.maxPayload := rfl
@[simp] theorem Tx.finish_pktOut (k : Status) (t : Tx) : (t.finish k).pktOut = t.pktOut := rfl
@[simp] theorem Tx.finish_txStatus (k : Status) (t : Tx) : (t.finish k).txStatus = t.txStatus ++ [k] := rfl
@[simp] theorem Tx.finish_ended (k : Status) (t : Tx) : (t.finish k).ended = t.ended ++ [k] := rfl
@[simp] theorem Tx.setSeq_seq (v : BitVec 16) (t : Tx) : (t.setSeq v).seq = v := rfl
@[simp] theorem Tx.setSeq_ts (v : BitVec 16) (t : Tx) : (t.setSeq v).ts = t.ts := rfl
@[simp] theorem Tx.setSeq_ssrc (v : BitVec 16) (t : Tx) : (t.setSeq v).ssrc = t.ssrc := rfl
@[simp] theorem Tx.setSeq_maxPayload (v : BitVec 16) (t : Tx) : (t.setSeq v).maxPayload = t.maxPayload := rfl
@[simp] theorem Tx.setSeq_pktOut (v : BitVec 16) (t : Tx) : (t.setSeq v).pktOut = t.pktOut := rfl
@[simp] theorem Tx.setSeq_txStatus (v : BitVec 16) (t : Tx) : (t.setSeq v).txStatus = t.txStatus := rfl
@[simp] theorem Tx.setSeq_ended (v : BitVec 16) (t : Tx) : (t.setSeq v).ended = t.ended := rfl
@[simp] theorem Tx.setTs_seq (v : BitVec 32) (t : Tx) : (t.setTs v).seq = t.seq := rfl
@[simp] theorem Tx.setTs_ts (v : BitVec 32) (t : Tx) : (t.setTs v).ts = v := rfl
@[simp] theorem Tx.setTs_ssrc (v : BitVec 32) (t : Tx) : (t.setTs v).ssrc = t.ssrc := rfl
@[simp] theorem Tx.setTs_maxPayload (v : BitVec 32) (t : Tx) : (t.setTs v).maxPayload = t.maxPayload := rfl
@[simp] theorem Tx.setTs_pktOut (v : BitVec 32) (t : Tx) : (t.setTs v).pktOut = t.pktOut := rfl
@[simp] theorem Tx.setTs_txStatus (v : BitVec 32) (t : Tx) : (t.setTs v).txStatus = t.txStatus := rfl
@[simp] theorem Tx.setTs_ended (v : BitVec 32) (t : Tx) : (t.setTs v).ended = t.ended := rfl
@[simp] theorem Tx.setSsrc_seq (v : BitVec 32) (t : Tx) : (t.setSsrc v).seq = t.seq := rfl
@[simp] theorem Tx.setSsrc_ts (v : BitVec 32) (t : Tx) : (t.setSsrc v).ts = t.ts := rfl
@[simp] theorem Tx.setSsrc_ssrc (v : BitVec 32) (t : Tx) : (t.setSsrc v).ssrc = v := rfl
@[simp] theorem Tx.setSsrc_maxPayload (v : BitVec 32) (t : Tx) : (t.setSsrc v).maxPayload = t.maxPayload := rfl
@[simp] theorem Tx.setSsrc_pktOut (v : BitVec 32) (t : Tx) : (t.setSsrc v).pktOut = t.pktOut := rfl
@[simp] theorem Tx.setSsrc_txStatus (v : BitVec 32) (t : Tx) : (t.setSsrc v).txStatus = t.txStatus := rfl
@[simp] theorem Tx.setSsrc_ended (v : BitVec 32) (t : Tx) : (t.setSsrc v).ended = t.ended := rfl
@[simp] theorem Tx.setMaxPayload_seq (v : BitVec 16) (t : Tx) : (t.setMaxPayload v).seq = t.seq := rfl
@[simp] theorem Tx.setMaxPayload_ts (v : BitVec 16) (t : Tx) : (t.setMaxPayload v).ts = t.ts := rfl
@[simp] theorem Tx.setMaxPayload_ssrc (v : BitVec 16) (t : Tx) : (t.setMaxPayload v).ssrc = t.ssrc := rfl
@[simp] theorem Tx.setMaxPayload_maxPayload (v : BitVec 16) (t : Tx) : (t.setMaxPayload v).maxPayload = v := rfl
@[simp] theorem Tx.setMaxPayload_pktOut (v : BitVec 16) (t : Tx) : (t.setMaxPayload v).pktOut = t.pktOut := rfl
@[simp] theorem Tx.setMaxPayload_txStatus (v : BitVec 16) (t : Tx) : (t.setMaxPayload v).txStatus = t.txStatus := rfl
@[simp] theorem Tx.setMaxPayload_ended (v : BitVec 16) (t : Tx) : (t.setMaxPayload v).ended = t.ended := rfl
@[simp] theorem Tx.pushPkt_seq (b : ByteString) (t : Tx) : (t.pushPkt b).seq = t.seq := rfl
@[simp] theorem Tx.pushPkt_ts (b : ByteString) (t : Tx) : (t.pushPkt b).ts = t.ts := rfl
@[simp] theorem Tx.pushPkt_ssrc (b : ByteString) (t : Tx) : (t.pushPkt b).ssrc = t.ssrc := rfl
@[simp] theorem Tx.pushPkt_maxPayload (b : ByteString) (t : Tx) : (t.pushPkt b).maxPayload = t.maxPayload := rfl
@[simp] theorem Tx.pushPkt_pktOut (b : ByteString) (t : Tx) : (t.pushPkt b).pktOut = t.pktOut ++ [b] := rfl
@[simp] theorem Tx.pushPkt_txStatus (b : ByteString) (t : Tx) : (t.pushPkt b).txStatus = t.txStatus := rfl
@[simp] theorem Tx.pushPkt_ended (b : ByteString) (t : Tx) : (t.pushPkt b).ended = t.ended := rfl
@[simp] theorem Tx.seqNext_seq (t : Tx) : (t.seqNext ).seq = t.seq + 1 := rfl
@[simp] theorem Tx.seqNext_ts (t : Tx) : (t.seqNext ).ts = t.ts := rfl
@[simp] theorem Tx.seqNext_ssrc (t : Tx) : (t.seqNext ).ssrc = t.ssrc := rfl
@[simp] theorem Tx.seqNext_maxPayload (t : Tx) : (t.seqNext ).maxPayload = t.maxPayload := rfl
@[simp] theorem Tx.seqNext_pktOut (t : Tx) : (t.seqNext ).pktOut = t.pktOut := rfl
@[simp] theorem Tx.seqNext_txStatus (t : Tx) : (t.seqNext ).txStatus = t.txStatus := rfl
@[simp] theorem Tx.seqNext_ended (t : Tx) : (t.seqNext ).ended = t.ended := rfl
@[simp] theorem Tx.tsAdvance_seq (fps : BitVec 32) (t : Tx) : (t.tsAdvance fps).seq = t.seq := rfl
@[simp] theorem Tx.tsAdvance_ts (fps : BitVec 32) (t : Tx) : (t.tsAdvance fps).ts = t.ts + BitVec.ofNat 32 (tick fps) := rfl
@[simp] theorem Tx.tsAdvance_ssrc (fps : BitVec 32) (t : Tx) : (t.tsAdvance fps).ssrc = t.ssrc := rfl
@[simp] theorem Tx.tsAdvance_maxPayload (fps : BitVec 32) (t : Tx) : (t.tsAdvance fps).maxPayload = t.maxPayload := rfl
@[simp] theorem Tx.tsAdvance_pktOut (fps : BitVec 32) (t : Tx) : (t.tsAdvance fps).pktOut = t.pktOut := rfl
@[simp] theorem Tx.tsAdvance_txStatus (fps : BitVec 32) (t : Tx) : (t.tsAdvance fps).txStatus = t.txStatus := rfl
@[simp] theorem Tx.tsAdvance_ended (fps : BitVec 32) (t : Tx) : (t.tsAdvance fps).ended = t.ended := rfl
@[simp] theorem Tx.construct_seq (mp : BitVec 16) (c : BitVec 32) (q : BitVec 16) (ts : BitVec 32) (t : Tx) : (t.construct mp c q ts).seq = q := rfl
@[simp] theorem Tx.construct_ts (mp : BitVec 16) (c : BitVec 32) (q : BitVec 16) (ts : BitVec 32) (t : Tx) : (t.construct mp c q ts).ts = ts := rfl
@[simp] theorem Tx.construct_ssrc (mp : BitVec 16) (c : BitVec 32) (q : BitVec 16) (ts : BitVec 32) (t : Tx) : (t.construct mp c q ts).ssrc = c := rfl
@[simp] theorem Tx.construct_maxPayload (mp : BitVec 16) (c : BitVec 32) (q : BitVec 16) (ts : BitVec 32) (t : Tx) : (t.construct mp c q ts).maxPayload = mp := rfl
@[simp] theorem Tx.construct_pktOut (mp : BitVec 16) (c : BitVec 32) (q : BitVec 16) (ts : BitVec 32) (t : Tx) : (t.construct mp c q ts).pktOut = t.pktOut := rfl
@[simp] theorem Tx.construct_txStatus (mp : BitVec 16) (c : BitVec 32) (q : BitVec 16) (ts : BitVec 32) (t : Tx) : (t.construct mp c q ts).txStatus = t.txStatus := rfl
@[simp] theorem Tx.construct_ended (mp : BitVec 16) (c : BitVec 32) (q : BitVec 16) (ts : BitVec 32) (t : Tx) : (t.construct mp c q ts).ended = t.ended := rfl

/-! ### Whole state -/

@[simp] theorem State.giveCodec_rx (c : CodecResult) (k : Status) (s : State) : (s.giveCodec c k).rx = s.rx := rfl
@[simp] theorem State.giveCodec_tx (c : CodecResult) (k : Status) (s : State) : (s.giveCodec c k).tx = s.tx := rfl
@[simp] theorem State.giveCodec_codecOut (c : CodecResult) (k : Status) (s : State) : (s.giveCodec c k).codecOut = s.codecOut ++ [c] := rfl
@[simp] theorem State.giveCodec_codecEnded (c : CodecResult) (k : Status) (s : State) : (s.giveCodec c k).codecEnded = s.codecEnded ++ [k] := rfl
@[simp] theorem State.giveCodec_pending (c : CodecResult) (k : Status) (s : State) : (s.giveCodec c k).pending = s.pending := rfl
@[simp] theorem State.giveCodec_micro (c : CodecResult) (k : Status) (s : State) : (s.giveCodec c k).micro = s.micro := rfl

/-- Placing a table word leaves everything but the two queues as it is. -/
theorem State.withFetchWord_frame (n w : Nat) (s : State) :
    (s.withFetchWord n w).rx = s.rx ∧ (s.withFetchWord n w).tx = s.tx ∧ (s.withFetchWord n w).codecOut = s.codecOut ∧
    (s.withFetchWord n w).codecEnded = s.codecEnded := by
  unfold State.withFetchWord; split <;> exact ⟨rfl, rfl, rfl, rfl⟩

/-! ### Outcomes -/

@[simp] theorem andThen_next {α β : Type} (a : α) (f : α → Result β) : andThen (.next a) f = f a := rfl
@[simp] theorem andThen_fault {α β : Type} (e : Fault) (f : α → Result β) : andThen (.fault e) f = .fault e := rfl
@[simp] theorem andThen_refused {α β : Type} (e : Refusal) (f : α → Result β) : andThen (.refused e) f = .refused e := rfl

/-- A sequence answers a next state exactly when its first part does and the rest does from there. -/
theorem andThen_eq_next {α β : Type} {o : Result α} {f : α → Result β} {b : β} :
    andThen o f = .next b ↔ ∃ a, o = .next a ∧ f a = .next b := by
  cases o <;> simp [andThen]

/-- What an operation of the receive instance can do to the whole state: it replaces `rx`, and nothing else. -/
theorem State.onRx_eq_next {f : Rx → Result Rx} {s t : State} :
    s.onRx f = .next t ↔ ∃ r, f s.rx = .next r ∧ t = { s with rx := r } := by
  rw [State.onRx, andThen_eq_next]
  simp only [Host.Outcome.next.injEq, @eq_comm _ _ t]

/-- What an operation of the transmit instance can do to the whole state: it replaces `tx`, and nothing else. -/
theorem State.onTx_eq_next {f : Tx → Result Tx} {s t : State} :
    s.onTx f = .next t ↔ ∃ x, f s.tx = .next x ∧ t = { s with tx := x } := by
  rw [State.onTx, andThen_eq_next]
  simp only [Host.Outcome.next.injEq, @eq_comm _ _ t]

@[simp] theorem Rx.setAccLen_setAccLen (n m : Nat) (r : Rx) : (r.setAccLen m).setAccLen n = r.setAccLen n := rfl
@[simp] theorem Rx.raise_eq (k : Status) (r : Rx) : r.raise k = .next (r.finish k) := rfl
@[simp] theorem Rx.returnOk_eq (r : Rx) : r.returnOk = .next (r.finish .ok) := rfl
@[simp] theorem Rx.overflow_eq (r : Rx) : r.overflow = .next ((r.setAccLen 0).finish .reassemblyOverflow) := rfl
@[simp] theorem Rx.other_eq (r : Rx) : r.other = .next (r.finish .unclassifiedNaluType) := rfl
@[simp] theorem Rx.fuTrunc_eq (r : Rx) : r.fuTrunc = .next (r.finish .truncatedInput) := rfl
@[simp] theorem Tx.raise_eq (k : Status) (t : Tx) : t.raise k = .next (t.finish k) := rfl
@[simp] theorem Tx.returnOk_eq (t : Tx) : t.returnOk = .next (t.finish .ok) := rfl

end Sys2Proof.Machine
end

