-- ==== Sys2Proof/Laws/Memory.lean ====
section
/-! SUPPORT. The accumulator's memory: a read after a write, and every operation keeps the canonical form. -/

namespace Sys2Proof.Machine

@[simp] theorem Memory.read_nil (a : Nat) : Memory.read [] a = none := rfl

theorem Memory.read_cons (k : Nat) (v : Byte) (m : Memory) (a : Nat) :
    Memory.read ((k, v) :: m) a = if k = a then some v else Memory.read m a := rfl

/-- A read after a write: the byte written, or what was there. -/
theorem Memory.read_write (m : Memory) (a x : Nat) (v : Byte) :
    (m.write a v).read x = if x = a then some v else m.read x := by
  induction m with
  | nil =>
    rw [Memory.write, Memory.read_cons]
    by_cases h : a = x
    · simp [h]
    · rw [if_neg h, if_neg (fun e => h e.symm)]
  | cons c m ih =>
    obtain ⟨k, w⟩ := c
    by_cases hx : x = a
    · subst hx
      simp only [Memory.write]
      split
      · simp [Memory.read_cons]
      · split
        · simp [Memory.read_cons]
        · rw [Memory.read_cons, if_neg (by omega), ih, if_pos rfl]
          simp
    · have ha : ¬ a = x := fun h => hx h.symm
      simp only [Memory.write]
      split
      · simp [Memory.read_cons, ha]
      · split
        · rename_i h1 h2; subst h2; simp [Memory.read_cons, ha]
        · rw [Memory.read_cons, ih, Memory.read_cons]; simp [hx]

/-- The addresses listed after a write: those before, and the one written. -/
theorem Memory.mem_write {m : Memory} {a : Nat} {v : Byte} {c : Host.Cell} (h : c ∈ m.write a v) :
    c.1 = a ∨ c ∈ m := by
  induction m with
  | nil => simp [Memory.write] at h; simp [h]
  | cons d m ih =>
    obtain ⟨k, w⟩ := d
    simp only [Memory.write] at h
    split at h
    · rcases List.mem_cons.1 h with rfl | h
      · simp
      · exact .inr h
    · split at h
      · rcases List.mem_cons.1 h with rfl | h
        · simp
        · exact .inr (List.mem_cons_of_mem _ h)
      · rcases List.mem_cons.1 h with rfl | h
        · simp
        · rcases ih h with h | h
          · exact .inl h
          · exact .inr (List.mem_cons_of_mem _ h)

@[simp] theorem Memory.wf_nil : Memory.wf [] := by simp [Memory.wf]

theorem Memory.wf_cons {k : Nat} {v : Byte} {m : Memory} :
    Memory.wf ((k, v) :: m) ↔ (∀ c ∈ m, k < c.1) ∧ Memory.wf m := by
  simp [Memory.wf]

/-- A write keeps the canonical form. -/
theorem Memory.write_wf {m : Memory} (h : m.wf) (a : Nat) (v : Byte) : (m.write a v).wf := by
  induction m with
  | nil => simp [Memory.write, Memory.wf]
  | cons c m ih =>
    obtain ⟨k, w⟩ := c
    obtain ⟨hk, hm⟩ := Memory.wf_cons.1 h
    simp only [Memory.write]
    split
    · rename_i hak
      refine Memory.wf_cons.2 ⟨?_, h⟩
      intro c hc
      rcases List.mem_cons.1 hc with rfl | hc
      · exact hak
      · exact lt_trans hak (hk c hc)
    · split
      · rename_i _ h2; subst h2; exact Memory.wf_cons.2 ⟨hk, hm⟩
      · refine Memory.wf_cons.2 ⟨?_, ih hm⟩
        intro c hc
        rcases Memory.mem_write hc with h1 | h1
        · omega
        · exact hk c h1

/-- A write of several bytes keeps the canonical form. -/
theorem Memory.writeBytes_wf {m : Memory} (h : m.wf) (a : Nat) (b : ByteString) : (m.writeBytes a b).wf := by
  induction b generalizing m a with
  | nil => exact h
  | cons v b ih => exact ih (Memory.write_wf h a v) (a + 1)

/-- Cutting the array keeps the canonical form. -/
theorem Memory.below_wf {m : Memory} (h : m.wf) (n : Nat) : (m.below n).wf := by
  refine List.Pairwise.sublist ?_ h
  exact List.filter_sublist.map _

/-- A read after a write of several bytes. -/
theorem Memory.read_writeBytes (m : Memory) (a x : Nat) (b : ByteString) :
    (m.writeBytes a b).read x = if a ≤ x ∧ x < a + b.length then b[x - a]? else m.read x := by
  induction b generalizing m a with
  | nil => simp [Memory.writeBytes]
  | cons v b ih =>
    rw [Memory.writeBytes, ih, Memory.read_write]
    by_cases h1 : a + 1 ≤ x ∧ x < a + 1 + b.length
    · rw [if_pos h1, if_pos (by simp; omega)]
      have : x - a = (x - (a + 1)) + 1 := by omega
      rw [this, List.getElem?_cons_succ]
    · rw [if_neg h1]
      by_cases h2 : x = a
      · subst h2; simp
      · rw [if_neg h2, if_neg (by simp; omega)]

/-- The addresses listed after a write of several bytes. -/
theorem Memory.mem_writeBytes {m : Memory} {a : Nat} {b : ByteString} {c : Host.Cell} (h : c ∈ m.writeBytes a b) :
    (a ≤ c.1 ∧ c.1 < a + b.length) ∨ c ∈ m := by
  induction b generalizing m a with
  | nil => exact .inr h
  | cons v b ih =>
    rcases ih h with h | h
    · left; simp; omega
    · rcases Memory.mem_write h with h | h
      · left; simp; omega
      · exact .inr h

/-- A read after cutting the array to `n` bytes. -/
theorem Memory.read_below (m : Memory) (n x : Nat) : (m.below n).read x = if x < n then m.read x else none := by
  induction m with
  | nil => simp [Memory.below]
  | cons c m ih =>
    obtain ⟨k, v⟩ := c
    unfold Memory.below at ih ⊢
    rw [List.filter_cons]
    split
    · rename_i hk
      simp only [decide_eq_true_eq] at hk
      rw [Memory.read_cons, ih, Memory.read_cons]
      by_cases hx : x < n
      · simp [hx]
      · rw [if_neg hx, if_neg hx, if_neg (by omega)]
    · rename_i hk
      simp only [decide_eq_true_eq] at hk
      rw [ih, Memory.read_cons]
      by_cases hx : x < n
      · rw [if_pos hx, if_pos hx, if_neg (by omega)]
      · rw [if_neg hx, if_neg hx]

theorem Memory.mem_below {m : Memory} {n : Nat} {c : Host.Cell} (h : c ∈ m.below n) : c.1 < n ∧ c ∈ m := by
  simp [Memory.below] at h; exact ⟨h.2, h.1⟩

/-- Reading `n` bytes gives `b` exactly when `b` has `n` bytes and each address has its byte. -/
theorem Memory.readBytes_eq_ok {m : Memory} {a n : Nat} {b : ByteString} :
    m.readBytes a n = .ok b ↔ b.length = n ∧ ∀ i, i < n → m.read (a + i) = b[i]? := by
  induction n generalizing a b with
  | zero =>
    simp only [Memory.readBytes, Except.ok.injEq]
    constructor
    · rintro rfl; simp
    · rintro ⟨h, -⟩; exact (List.length_eq_zero_iff.1 h).symm
  | succ n ih =>
    simp only [Memory.readBytes]
    constructor
    · intro h
      split at h
      · cases h
      · rename_i v hv
        split at h
        · rename_i b' hb
          cases h
          obtain ⟨h1, h2⟩ := ih.1 hb
          refine ⟨by simp [h1], ?_⟩
          intro i hi
          cases i with
          | zero => simpa using hv
          | succ i =>
            have := h2 i (by omega)
            rw [show a + 1 + i = a + (i + 1) by omega] at this
            simpa using this
        · cases h
    · rintro ⟨h1, h2⟩
      cases b with
      | nil => simp at h1
      | cons v b =>
        have h0 : m.read a = some v := by simpa using h2 0 (by omega)
        rw [h0]
        have : m.readBytes (a + 1) n = .ok b := by
          refine ih.2 ⟨by simpa using h1, ?_⟩
          intro i hi
          have := h2 (i + 1) (by omega)
          rw [show a + (i + 1) = a + 1 + i by omega] at this
          simpa using this
        simp [this]

/-- Reading answers bytes whenever every address has one. -/
theorem Memory.readBytes_isOk {m : Memory} {a n : Nat} (h : ∀ i, i < n → (m.read (a + i)).isSome) :
    ∃ b, m.readBytes a n = .ok b := by
  induction n generalizing a with
  | zero => exact ⟨[], rfl⟩
  | succ n ih =>
    obtain ⟨v, hv⟩ := Option.isSome_iff_exists.1 (by simpa using h 0 (by omega))
    obtain ⟨b, hb⟩ := ih (a := a + 1) (fun i hi => by
      have := h (i + 1) (by omega)
      rwa [show a + (i + 1) = a + 1 + i by omega] at this)
    exact ⟨v :: b, by simp [Memory.readBytes, hv, hb]⟩

/-- What was written is read back. -/
theorem Memory.readBytes_writeBytes (m : Memory) (a : Nat) (b : ByteString) :
    (m.writeBytes a b).readBytes a b.length = .ok b := by
  refine Memory.readBytes_eq_ok.2 ⟨rfl, fun i hi => ?_⟩
  rw [Memory.read_writeBytes, if_pos (by omega), Nat.add_sub_cancel_left]

/-- Writing two strings one after the other is writing them joined. -/
theorem Memory.writeBytes_append (m : Memory) (a : Nat) (b c : ByteString) :
    m.writeBytes a (b ++ c) = (m.writeBytes a b).writeBytes (a + b.length) c := by
  induction b generalizing m a with
  | nil => simp [Memory.writeBytes]
  | cons v b ih =>
    simp only [List.cons_append, Memory.writeBytes, ih, List.length_cons]
    rw [show a + 1 + b.length = a + (b.length + 1) by omega]

end Sys2Proof.Machine
end

