-- ==== Sys2Proof/Laws/Operands.lean ====
section
/-! SUPPORT. The bit fields of the wire structures: unpacking gives back what was packed, packing gives back the bytes
unpacked, and each packed value is the integer the spec's formula gives (R61 to R66, R69, R102). -/

namespace Sys2Proof.Machine

@[simp] theorem byteAt_zero (x : Byte) (b : ByteString) : byteAt (x :: b) 0 = x := rfl
@[simp] theorem byteAt_succ (x : Byte) (b : ByteString) (k : Nat) : byteAt (x :: b) (k + 1) = byteAt b k := rfl

/-- Within the string, `byteAt` is the byte there. -/
theorem byteAt_eq_getElem {b : ByteString} {k : Nat} (h : k < b.length) : byteAt b k = b[k] := by
  simp [byteAt, h]

/-! ### H.264 NAL header and FU indicator -/

@[simp] theorem nalF_nalByte (f : BitVec 1) (nri : BitVec 2) (ty : BitVec 5) : nalF (nalByte f nri ty) = f := by
  revert f nri ty; decide
@[simp] theorem nalNri_nalByte (f : BitVec 1) (nri : BitVec 2) (ty : BitVec 5) : nalNri (nalByte f nri ty) = nri := by
  revert f nri ty; decide
@[simp] theorem nalType_nalByte (f : BitVec 1) (nri : BitVec 2) (ty : BitVec 5) : nalType (nalByte f nri ty) = ty := by
  revert f nri ty; decide
/-- A byte is made of its own fields. -/
theorem nalByte_eta (x : Byte) : nalByte (nalF x) (nalNri x) (nalType x) = x := by
  revert x; decide
theorem nalByte_toNat (f : BitVec 1) (nri : BitVec 2) (ty : BitVec 5) :
    (nalByte f nri ty).toNat = f.toNat * 128 + nri.toNat * 32 + ty.toNat := by
  revert f nri ty; decide

@[simp] theorem nalF_fuIndicator (f : BitVec 1) (nri : BitVec 2) : nalF (fuIndicator f nri) = f := by simp [fuIndicator]
@[simp] theorem nalNri_fuIndicator (f : BitVec 1) (nri : BitVec 2) : nalNri (fuIndicator f nri) = nri := by
  simp [fuIndicator]
@[simp] theorem nalType_fuIndicator (f : BitVec 1) (nri : BitVec 2) :
    nalType (fuIndicator f nri) = Config.fuaType := by simp [fuIndicator]

/-! ### H.264 FU header -/

@[simp] theorem fuS_fuHeaderByte (s e r : BitVec 1) (ty : BitVec 5) : fuS (fuHeaderByte s e r ty) = s := by
  revert s e r ty; decide
@[simp] theorem fuE_fuHeaderByte (s e r : BitVec 1) (ty : BitVec 5) : fuE (fuHeaderByte s e r ty) = e := by
  revert s e r ty; decide
@[simp] theorem fuR_fuHeaderByte (s e r : BitVec 1) (ty : BitVec 5) : fuR (fuHeaderByte s e r ty) = r := by
  revert s e r ty; decide
@[simp] theorem nalType_fuHeaderByte (s e r : BitVec 1) (ty : BitVec 5) : nalType (fuHeaderByte s e r ty) = ty := by
  revert s e r ty; decide
/-- A byte is made of its own fields. -/
theorem fuHeaderByte_eta (x : Byte) : fuHeaderByte (fuS x) (fuE x) (fuR x) (nalType x) = x := by
  revert x; decide
theorem fuHeaderByte_toNat (s e r : BitVec 1) (ty : BitVec 5) :
    (fuHeaderByte s e r ty).toNat = s.toNat * 128 + e.toNat * 64 + r.toNat * 32 + ty.toNat := by
  revert s e r ty; decide

@[simp] theorem fuS_fuHeader (s e : BitVec 1) (ty : BitVec 5) : fuS (fuHeader s e ty) = s := by simp [fuHeader]
@[simp] theorem fuE_fuHeader (s e : BitVec 1) (ty : BitVec 5) : fuE (fuHeader s e ty) = e := by simp [fuHeader]
@[simp] theorem fuR_fuHeader (s e : BitVec 1) (ty : BitVec 5) : fuR (fuHeader s e ty) = 0 := by simp [fuHeader]
@[simp] theorem nalType_fuHeader (s e : BitVec 1) (ty : BitVec 5) : nalType (fuHeader s e ty) = ty := by simp [fuHeader]

/-- The synthesised header has `F` and `NRI` of the FU indicator and the type of the FU header (R69). -/
theorem synthesisedHeader_eq (b0 fh : Byte) : synthesisedHeader b0 fh = nalByte (nalF b0) (nalNri b0) (nalType fh) := by
  have h : ∀ b0 : Byte, b0 &&& 0xE0 = nalByte (nalF b0) (nalNri b0) 0 := by decide
  have h' : ∀ fh : Byte, fh &&& 0x1F = nalByte 0 0 (nalType fh) := by decide
  have h'' : ∀ (f : BitVec 1) (nri : BitVec 2) (ty : BitVec 5),
      nalByte f nri 0 ||| nalByte 0 0 ty = nalByte f nri ty := by decide
  rw [synthesisedHeader, h, h', h'']

/-! ### Big-endian numbers -/

theorem be16_toNat (b : ByteString) (k : Nat) :
    (be16 b k).toNat = (byteAt b k).toNat * 256 + (byteAt b (k + 1)).toNat := by
  have h := (byteAt b (k + 1)).isLt
  simp only [be16, BitVec.toNat_append]
  rw [← Nat.shiftLeft_add_eq_or_of_lt h, Nat.shiftLeft_eq]

theorem be32_toNat (b : ByteString) (k : Nat) :
    (be32 b k).toNat = (byteAt b k).toNat * 2 ^ 24 + (byteAt b (k + 1)).toNat * 2 ^ 16
      + (byteAt b (k + 2)).toNat * 2 ^ 8 + (byteAt b (k + 3)).toNat := by
  have h1 := (byteAt b (k + 1)).isLt
  have h2 := (byteAt b (k + 2)).isLt
  have h3 := (byteAt b (k + 3)).isLt
  simp only [be32, BitVec.toNat_append]
  rw [← Nat.shiftLeft_add_eq_or_of_lt h1, ← Nat.shiftLeft_add_eq_or_of_lt h2, ← Nat.shiftLeft_add_eq_or_of_lt h3]
  simp only [Nat.shiftLeft_eq]
  ring

theorem toBe16_toNat (v : BitVec 16) :
    toBe16 v = [BitVec.ofNat 8 (v.toNat / 256), BitVec.ofNat 8 v.toNat] := by
  simp only [toBe16, List.cons.injEq, and_true]
  constructor <;> apply BitVec.eq_of_toNat_eq <;>
    simp [BitVec.extractLsb'_toNat, Nat.shiftRight_eq_div_pow]

theorem toBe32_toNat (v : BitVec 32) :
    toBe32 v = [BitVec.ofNat 8 (v.toNat / 2 ^ 24), BitVec.ofNat 8 (v.toNat / 2 ^ 16), BitVec.ofNat 8 (v.toNat / 2 ^ 8),
      BitVec.ofNat 8 v.toNat] := by
  simp only [toBe32, List.cons.injEq, and_true]
  refine ⟨?_, ?_, ?_, ?_⟩ <;> apply BitVec.eq_of_toNat_eq <;>
    simp [BitVec.extractLsb'_toNat, Nat.shiftRight_eq_div_pow]

@[simp] theorem length_toBe16 (v : BitVec 16) : (toBe16 v).length = 2 := rfl
@[simp] theorem length_toBe32 (v : BitVec 32) : (toBe32 v).length = 4 := rfl

/-- A 16-bit number read where it was written. -/
theorem be16_toBe16 (v : BitVec 16) (rest : ByteString) : be16 (toBe16 v ++ rest) 0 = v := by
  apply BitVec.eq_of_toNat_eq
  rw [be16_toNat, toBe16_toNat]
  have := v.isLt
  simp
  omega

/-- A 32-bit number read where it was written. -/
theorem be32_toBe32 (v : BitVec 32) (rest : ByteString) : be32 (toBe32 v ++ rest) 0 = v := by
  apply BitVec.eq_of_toNat_eq
  rw [be32_toNat, toBe32_toNat]
  have := v.isLt
  simp
  omega

/-- Two bytes written as the number they make. -/
theorem toBe16_append (x y : Byte) : toBe16 (x ++ y) = [x, y] := by
  have hx := x.isLt
  have hy := y.isLt
  have h : (x ++ y).toNat = x.toNat * 256 + y.toNat := by
    rw [BitVec.toNat_append, ← Nat.shiftLeft_add_eq_or_of_lt hy, Nat.shiftLeft_eq]
  rw [toBe16_toNat, h]
  simp only [List.cons.injEq, and_true]
  constructor <;> apply BitVec.eq_of_toNat_eq <;> simp <;> omega

/-- Four bytes written as the number they make. -/
theorem toBe32_append (x y z w : Byte) : toBe32 (x ++ y ++ z ++ w) = [x, y, z, w] := by
  have hx := x.isLt
  have hy := y.isLt
  have hz := z.isLt
  have hw := w.isLt
  have h : (x ++ y ++ z ++ w).toNat = x.toNat * 2 ^ 24 + y.toNat * 2 ^ 16 + z.toNat * 2 ^ 8 + w.toNat := by
    have := be32_toNat [x, y, z, w] 0
    simpa [be32] using this
  rw [toBe32_toNat, h]
  simp only [List.cons.injEq, and_true]
  refine ⟨?_, ?_, ?_, ?_⟩ <;> apply BitVec.eq_of_toNat_eq <;> simp <;> omega

/-! ### RTP header -/

@[simp] theorem length_rtpPack (h : RtpHeader) : (rtpPack h).length = 12 := rfl

/-- Byte 0 of an RTP header, field by field. -/
theorem rtpByte0_fields (v : BitVec 2) (p x : BitVec 1) (cc : BitVec 4) :
    (v ++ p ++ x ++ cc : Byte).extractLsb' 6 2 = v ∧ (v ++ p ++ x ++ cc : Byte).extractLsb' 5 1 = p ∧
    (v ++ p ++ x ++ cc : Byte).extractLsb' 4 1 = x ∧ (v ++ p ++ x ++ cc : Byte).extractLsb' 0 4 = cc := by
  revert v p x cc; decide

/-- Byte 1 of an RTP header, field by field. -/
theorem rtpByte1_fields (m : BitVec 1) (pt : BitVec 7) :
    (m ++ pt : Byte).extractLsb' 7 1 = m ∧ (m ++ pt : Byte).extractLsb' 0 7 = pt := by
  revert m pt; decide

/-- `RTP_DEC` after `RTP_ENC` (R102), whatever bytes follow. -/
theorem rtpUnpack_rtpPack (h : RtpHeader) (rest : ByteString) : rtpUnpack (rtpPack h ++ rest) = h := by
  obtain ⟨h1, h2, h3, h4⟩ := rtpByte0_fields h.v h.p h.x h.cc
  obtain ⟨h5, h6⟩ := rtpByte1_fields h.m h.pt
  have h7 : be16 (rtpPack h ++ rest) 2 = h.seq := be16_toBe16 h.seq (toBe32 h.ts ++ toBe32 h.ssrc ++ rest)
  have h8 : be32 (rtpPack h ++ rest) 4 = h.ts := be32_toBe32 h.ts (toBe32 h.ssrc ++ rest)
  have h9 : be32 (rtpPack h ++ rest) 8 = h.ssrc := be32_toBe32 h.ssrc rest
  have e0 : byteAt (rtpPack h ++ rest) 0 = h.v ++ h.p ++ h.x ++ h.cc := rfl
  have e1 : byteAt (rtpPack h ++ rest) 1 = h.m ++ h.pt := rfl
  cases h
  simp only [rtpUnpack, e0, e1, h1, h2, h3, h4, h5, h6, h7, h8, h9]

/-- `RTP_ENC` after `RTP_DEC` gives back the first twelve bytes (R102). -/
theorem rtpPack_rtpUnpack (b : ByteString) (h : 12 ≤ b.length) : rtpPack (rtpUnpack b) = b.take 12 := by
  have eta0 : ∀ x : Byte,
      (x.extractLsb' 6 2 ++ x.extractLsb' 5 1 ++ x.extractLsb' 4 1 ++ x.extractLsb' 0 4 : Byte) = x := by decide
  have eta1 : ∀ x : Byte, (x.extractLsb' 7 1 ++ x.extractLsb' 0 7 : Byte) = x := by decide
  match b, h with
  | a0 :: a1 :: a2 :: a3 :: a4 :: a5 :: a6 :: a7 :: a8 :: a9 :: a10 :: a11 :: rest, _ =>
    have h7 : be16 (a0 :: a1 :: a2 :: a3 :: a4 :: a5 :: a6 :: a7 :: a8 :: a9 :: a10 :: a11 :: rest) 2 = a2 ++ a3 := rfl
    have h8 : be32 (a0 :: a1 :: a2 :: a3 :: a4 :: a5 :: a6 :: a7 :: a8 :: a9 :: a10 :: a11 :: rest) 4
        = a4 ++ a5 ++ a6 ++ a7 := rfl
    have h9 : be32 (a0 :: a1 :: a2 :: a3 :: a4 :: a5 :: a6 :: a7 :: a8 :: a9 :: a10 :: a11 :: rest) 8
        = a8 ++ a9 ++ a10 ++ a11 := rfl
    simp only [rtpPack, rtpUnpack, h7, h8, h9, byteAt_zero, eta0, toBe16_append, toBe32_append]
    simp [byteAt, eta1]

/-! ### H.265 -/

/-- Reading the two bytes of an H.265 NAL header gives its sixteen bits. -/
theorem be16_nal265Pack (f : BitVec 1) (ty layerId : BitVec 6) (tid : BitVec 3) (rest : ByteString) :
    be16 (nal265Pack f ty layerId tid ++ rest) 0 = f ++ ty ++ layerId ++ tid := be16_toBe16 _ rest

/-- The sixteen bits of an H.265 NAL header as an integer (R65). -/
theorem nal265_toNat (f : BitVec 1) (ty layerId : BitVec 6) (tid : BitVec 3) :
    (f ++ ty ++ layerId ++ tid).toNat = f.toNat * 32768 + ty.toNat * 512 + layerId.toNat * 8 + tid.toNat := by
  have h1 := ty.isLt
  have h2 := layerId.isLt
  have h3 := tid.isLt
  simp only [BitVec.toNat_append]
  rw [← Nat.shiftLeft_add_eq_or_of_lt h1, ← Nat.shiftLeft_add_eq_or_of_lt h2, ← Nat.shiftLeft_add_eq_or_of_lt h3]
  simp only [Nat.shiftLeft_eq]
  ring

/-- The fields of an H.265 NAL header out of its sixteen bits. -/
theorem nal265_fields (f : BitVec 1) (ty layerId : BitVec 6) (tid : BitVec 3) (rest : ByteString) :
    nal265F (nal265Pack f ty layerId tid ++ rest) = f ∧ nal265Type (nal265Pack f ty layerId tid ++ rest) = ty ∧
    nal265LayerId (nal265Pack f ty layerId tid ++ rest) = layerId ∧
    nal265Tid (nal265Pack f ty layerId tid ++ rest) = tid := by
  have h0 := f.isLt
  have h1 := ty.isLt
  have h2 := layerId.isLt
  have h3 := tid.isLt
  simp only [nal265F, nal265Type, nal265LayerId, nal265Tid, be16_nal265Pack]
  refine ⟨?_, ?_, ?_, ?_⟩ <;> apply BitVec.eq_of_toNat_eq <;>
    rw [BitVec.extractLsb'_toNat, nal265_toNat, Nat.shiftRight_eq_div_pow] <;> omega

/-- The sixteen bits read from an H.265 NAL header are the integer of its fields (R65, R98). -/
theorem nal265_unpack_toNat (b : ByteString) :
    (be16 b 0).toNat = (nal265F b).toNat * 32768 + (nal265Type b).toNat * 512 + (nal265LayerId b).toNat * 8
      + (nal265Tid b).toNat := by
  have h := (be16 b 0).isLt
  simp only [nal265F, nal265Type, nal265LayerId, nal265Tid, BitVec.extractLsb'_toNat, Nat.shiftRight_eq_div_pow]
  omega

@[simp] theorem fuS_fu265Byte (s e : BitVec 1) (ty : BitVec 6) : fuS (fu265Byte s e ty) = s := by
  revert s e ty; decide
@[simp] theorem fuE_fu265Byte (s e : BitVec 1) (ty : BitVec 6) : fuE (fu265Byte s e ty) = e := by
  revert s e ty; decide
@[simp] theorem fu265Type_fu265Byte (s e : BitVec 1) (ty : BitVec 6) : fu265Type (fu265Byte s e ty) = ty := by
  revert s e ty; decide
/-- A byte is made of its own fields. -/
theorem fu265Byte_eta (x : Byte) : fu265Byte (fuS x) (fuE x) (fu265Type x) = x := by
  revert x; decide
theorem fu265Byte_toNat (s e : BitVec 1) (ty : BitVec 6) :
    (fu265Byte s e ty).toNat = s.toNat * 128 + e.toNat * 64 + ty.toNat := by
  revert s e ty; decide

/-! ### Natural numbers as bytes -/

theorem natOfBytes_append (b c : ByteString) :
    natOfBytes (b ++ c) = c.foldl (fun n x => n * 256 + x.toNat) (natOfBytes b) := by
  simp [natOfBytes]

/-- Enough bytes give the number back. -/
theorem natOfBytes_natToBytesFixed (k n : Nat) (h : n < 256 ^ k) : natOfBytes (natToBytesFixed k n) = n := by
  induction k generalizing n with
  | zero => simp at h; subst h; rfl
  | succ k ih =>
    have hk : n / 256 < 256 ^ k := by
      rw [Nat.div_lt_iff_lt_mul (by norm_num)]; simpa [pow_succ] using h
    rw [natToBytesFixed, natOfBytes_append, ih _ hk]
    simp
    omega

/-- A natural number's bytes give it back. -/
theorem natOfBytes_natToBytes (n : Nat) : natOfBytes (natToBytes n) = n := by
  apply natOfBytes_natToBytesFixed
  calc n < 2 ^ (n.log2 + 1) := Nat.lt_log2_self
    _ ≤ 2 ^ (8 * (n.log2 / 8 + 1)) := Nat.pow_le_pow_right (by norm_num) (by omega)
    _ = 256 ^ (n.log2 / 8 + 1) := by rw [pow_mul]; norm_num

end Sys2Proof.Machine
end

