-- ==== Sys2Proof/Laws/Ops.lean ====
section
/-! SUPPORT. One lemma for each shared operation that says once everything it can do; the provers cite these instead of
unfolding the operation. -/

namespace Sys2Proof.Machine

/-! ### The receive instance -/

/-- An emission hands over the bytes below `ACC_LEN`, and changes nothing else. -/
theorem Rx.emitNalu_eq_next {r r' : Rx} :
    r.emitNalu = .next r' ↔ ∃ u, r.acc.readBytes 0 r.accLen = .ok u ∧ r' = r.pushNalu u := by
  unfold Rx.emitNalu
  constructor
  · intro h
    split at h
    · rename_i u hu; exact ⟨u, hu, by simpa using h.symm⟩
    · cases h
  · rintro ⟨u, hu, rfl⟩; simp [hu]

/-- Emitting and emptying, when the bytes are there. -/
theorem Rx.emitAndEmpty_of_read {r : Rx} {u : ByteString} (h : r.acc.readBytes 0 r.accLen = .ok u) :
    r.emitAndEmpty = .next (((r.pushNalu u).setAccLen 0).finish .ok) := by
  rw [Rx.emitAndEmpty, Rx.emitNalu_eq_next.2 ⟨u, h, rfl⟩]; rfl

/-- The only next state of emitting and emptying. -/
theorem Rx.emitAndEmpty_eq_next {r r' : Rx} : r.emitAndEmpty = .next r' ↔
    ∃ u, r.acc.readBytes 0 r.accLen = .ok u ∧ r' = ((r.pushNalu u).setAccLen 0).finish .ok := by
  constructor
  · intro h
    obtain ⟨x, hx, h⟩ := andThen_eq_next.1 h
    obtain ⟨u, hu, rfl⟩ := Rx.emitNalu_eq_next.1 hx
    exact ⟨u, hu, by simpa using h.symm⟩
  · rintro ⟨u, hu, rfl⟩; exact Rx.emitAndEmpty_of_read hu

/-- Starting a unit writes the start code, the header byte and the payload as one string from address 0. -/
theorem Rx.startUnit_acc_eq (hdr : Byte) (b : ByteString) (r : Rx) :
    (r.startUnit hdr b).acc = r.acc.writeBytes 0 (Config.startCode ++ hdr :: b) := by
  rw [Memory.writeBytes_append, ← List.singleton_append, Memory.writeBytes_append]
  rfl

/-- What a started unit reads as. -/
theorem Rx.startUnit_read (hdr : Byte) (b : ByteString) (r : Rx) :
    (r.startUnit hdr b).acc.readBytes 0 (5 + b.length) = .ok (Config.startCode ++ hdr :: b) := by
  rw [Rx.startUnit_acc_eq]
  have h := Memory.readBytes_writeBytes r.acc 0 (Config.startCode ++ hdr :: b)
  rwa [show (Config.startCode ++ hdr :: b).length = 5 + b.length by simp [Config.startCode]; omega] at h

/-- Everything `RX_SINGLE` can do (R114): it always ends in a next state. -/
theorem Rx.single_eq (hdr : Byte) (rest : ByteString) (r : Rx) : r.single hdr rest = .next
    (if r.maxNalu < 5 + rest.length then (r.setAccLen 0).finish .reassemblyOverflow
     else ((((r.setAccLen 0).startUnit hdr rest).pushNalu (Config.startCode ++ hdr :: rest)).setAccLen 0).finish .ok) := by
  unfold Rx.single
  by_cases h : r.maxNalu < 5 + rest.length
  · simp [h]
  · simp only [Rx.setAccLen_maxNalu, h, if_false]
    exact Rx.emitAndEmpty_of_read (Rx.startUnit_read hdr rest _)

/-- Everything `RX_FU_START` can do (R116): it always ends in a next state. -/
theorem Rx.fuStart_eq (b0 fh : Byte) (body : ByteString) (r : Rx) : r.fuStart b0 fh body = .next
    (if r.maxNalu < 5 + body.length then (r.setAccLen 0).finish .reassemblyOverflow
     else ((r.setAccLen 0).startUnit (synthesisedHeader b0 fh) body).finish .ok) := by
  unfold Rx.fuStart
  by_cases h : r.maxNalu < 5 + body.length <;> simp [h]

/-- Everything `RX_FU_MID` can do (R117): it always ends in a next state. -/
theorem Rx.fuMid_eq (body : ByteString) (r : Rx) : r.fuMid body = .next
    (if r.accLen = 0 then r.finish .ok
     else if r.maxNalu < r.accLen + body.length then (r.setAccLen 0).finish .reassemblyOverflow
     else (r.append body).finish .ok) := by
  unfold Rx.fuMid
  by_cases h : r.accLen = 0
  · simp [h]
  · by_cases h' : r.maxNalu < r.accLen + body.length <;> simp [h, h']

/-- Appending leaves the bytes below `ACC_LEN` and puts the body after them. -/
theorem Rx.append_read {r : Rx} {u : ByteString} (h : r.acc.readBytes 0 r.accLen = .ok u) (body : ByteString) :
    (r.append body).acc.readBytes 0 (r.accLen + body.length) = .ok (u ++ body) := by
  obtain ⟨hl, hr⟩ := Memory.readBytes_eq_ok.1 h
  refine Memory.readBytes_eq_ok.2 ⟨by simp [hl], fun i hi => ?_⟩
  rw [Rx.append_acc, Memory.read_writeBytes]
  by_cases h1 : i < r.accLen
  · rw [if_neg (by omega), hr i h1, List.getElem?_append_left (by omega)]
  · rw [if_pos (by omega), List.getElem?_append_right (by omega), hl, Nat.zero_add]

/-- Everything `RX_FU_END` can do (R118), when the bytes below `ACC_LEN` are there. -/
theorem Rx.fuEnd_of_read {r : Rx} {u : ByteString} (h : r.acc.readBytes 0 r.accLen = .ok u) (body : ByteString) :
    r.fuEnd body = .next
      (if r.accLen = 0 then r.finish .ok
       else if r.maxNalu < r.accLen + body.length then (r.setAccLen 0).finish .reassemblyOverflow
       else (((r.append body).pushNalu (u ++ body)).setAccLen 0).finish .ok) := by
  unfold Rx.fuEnd
  by_cases h0 : r.accLen = 0
  · simp [h0]
  · by_cases h1 : r.maxNalu < r.accLen + body.length
    · simp [h0, h1]
    · simp only [h0, h1, if_false]
      exact Rx.emitAndEmpty_of_read (Rx.append_read h body)

/-- The bytes of a filled accumulator can be read. -/
theorem Rx.Filled.read {r : Rx} (h : r.Filled) : ∃ u, r.acc.readBytes 0 r.accLen = .ok u :=
  Memory.readBytes_isOk (fun i hi => by simpa using h i hi)

/-- The only next states of `RX_FU_END` (R118). -/
theorem Rx.fuEnd_eq_next {r r' : Rx} {body : ByteString} (h : r.fuEnd body = .next r') :
    (r.accLen = 0 ∧ r' = r.finish .ok) ∨
    (r.accLen ≠ 0 ∧ r.maxNalu < r.accLen + body.length ∧ r' = (r.setAccLen 0).finish .reassemblyOverflow) ∨
    (r.accLen ≠ 0 ∧ r.accLen + body.length ≤ r.maxNalu ∧ ∃ u,
      (r.append body).acc.readBytes 0 (r.accLen + body.length) = .ok u ∧
      r' = (((r.append body).pushNalu u).setAccLen 0).finish .ok) := by
  unfold Rx.fuEnd at h
  split at h
  · rename_i h0; exact .inl ⟨h0, by simpa using h.symm⟩
  · rename_i h0
    split at h
    · rename_i h1; exact .inr (.inl ⟨h0, h1, by simpa using h.symm⟩)
    · rename_i h1
      obtain ⟨u, hu, rfl⟩ := Rx.emitAndEmpty_eq_next.1 h
      exact .inr (.inr ⟨h0, by omega, u, hu, rfl⟩)

/-! ### The transmit instance -/

/-- Everything the output stage does for a single packet (R135, R139). -/
theorem Tx.emitSingle_eq (body : ByteString) (t : Tx) : t.emitSingle body =
    { t with
      seq := t.seq + 1
      pktOut := t.pktOut ++ [rtpPack { v := 2, p := 0, x := 0, cc := 0, m := 1, pt := 96,
                                       seq := t.seq + 1, ts := t.ts, ssrc := t.ssrc } ++ body] } := rfl

/-- Everything the output stage does for one fragment (R137, R139). -/
theorem Tx.emitFragment_eq (hdr : Byte) (s e : BitVec 1) (slice : ByteString) (t : Tx) : t.emitFragment hdr s e slice =
    { t with
      seq := t.seq + 1
      pktOut := t.pktOut ++ [rtpPack { v := 2, p := 0, x := 0, cc := 0, m := e, pt := 96,
                                       seq := t.seq + 1, ts := t.ts, ssrc := t.ssrc }
        ++ [fuIndicator (nalF hdr) (nalNri hdr), fuHeader s e (nalType hdr)] ++ slice] } := rfl

/-- The FU indicator of a header byte as R137 writes it. -/
theorem fuIndicator_eq_mask (x : Byte) : fuIndicator (nalF x) (nalNri x) = (x &&& 0xE0) ||| 28 := by
  revert x; decide

/-- The FU header of a header byte as R69 writes it. -/
theorem fuHeader_eq_sum (s e : Bool) (x : Byte) :
    fuHeader (if s then 1 else 0) (if e then 1 else 0) (nalType x) =
      BitVec.ofNat 8 ((if s then 128 else 0) + (if e then 64 else 0) + (x &&& 0x1F).toNat) := by
  revert s e x; decide

/-- The sizes of R136: at least two fragments, which cover the payload exactly, the last with 1 to `maxPayload` bytes. -/
theorem fragCount_spec {p m : Nat} (hm : 0 < m) (hp : m < p) :
    2 ≤ fragCount p m ∧ (fragCount p m - 1) * m + lastFragSize p m = p ∧ 1 ≤ lastFragSize p m ∧ lastFragSize p m ≤ m := by
  unfold fragCount lastFragSize
  have hd := Nat.div_add_mod p m
  have hlt := Nat.mod_lt p hm
  by_cases h : p % m = 0
  · have e : (p + m - 1) / m = p / m := by
      rw [Nat.div_eq_iff hm]
      constructor
      · have : p / m * m = p := by rw [Nat.mul_comm]; omega
        omega
      · have : p / m * m = p := by rw [Nat.mul_comm]; omega
        omega
    have e1 : p = p / m * m := by rw [Nat.mul_comm]; omega
    have h2 : 2 ≤ p / m := by
      by_contra hc
      have : p / m * m ≤ 1 * m := Nat.mul_le_mul_right m (by omega)
      omega
    rw [e, if_pos h]
    refine ⟨h2, ?_, hm, le_rfl⟩
    have : (p / m - 1) * m + m = p / m * m := by
      rw [← Nat.succ_mul]; congr 1; omega
    omega
  · have e : (p + m - 1) / m = p / m + 1 := by
      rw [Nat.div_eq_iff hm]
      have e1 : (p / m + 1) * m = p / m * m + m := Nat.succ_mul _ _
      have e2 : p / m * m + p % m = p := by rw [Nat.mul_comm]; omega
      constructor <;> omega
    have e2 : p / m * m + p % m = p := by rw [Nat.mul_comm]; omega
    have h1 : 1 ≤ p / m := (Nat.one_le_div_iff hm).2 hp.le
    rw [e, if_neg h]
    refine ⟨by omega, ?_, by omega, hlt.le⟩
    simpa using e2

/-- Fragment `i` is the packet of the spec's words, and one step of `SEQ` (R137). -/
theorem Tx.fragment_eq {body : ByteString} {m i : Nat} (hm : 0 < m) (hp : m < body.length - 1)
    (hi : i < fragCount (body.length - 1) m) (seq0 : BitVec 16) (t : Tx) (hs : t.seq = seq0 + BitVec.ofNat 16 i) :
    t.fragment body m i = { t with
      seq := seq0 + BitVec.ofNat 16 (i + 1)
      pktOut := t.pktOut ++ [fragmentPacket seq0 t.ts t.ssrc body m i] } := by
  obtain ⟨h2, hsum, h3, h4⟩ := fragCount_spec hm hp
  have hseq : t.seq + 1 = seq0 + BitVec.ofNat 16 (i + 1) := by
    rw [hs]; apply BitVec.eq_of_toNat_eq; simp; omega
  have hslice : slice body (1 + i * m)
        (1 + i * m + if i < fragCount (body.length - 1) m - 1 then m else lastFragSize (body.length - 1) m) =
      ((body.drop 1).drop (i * m)).take m := by
    rw [slice, List.drop_drop, Nat.add_sub_cancel_left]
    split
    · rfl
    · have hi' : i = fragCount (body.length - 1) m - 1 := by omega
      have hl : (body.drop (1 + i * m)).length = lastFragSize (body.length - 1) m := by
        rw [List.length_drop, hi']; omega
      rw [List.take_of_length_le hl.le, List.take_of_length_le (by omega)]
  have hfh := fuHeader_eq_sum (decide (i = 0)) (decide (i = fragCount (body.length - 1) m - 1)) (byteAt body 0)
  simp only [decide_eq_true_eq] at hfh
  unfold Tx.fragment
  simp only [hslice, Tx.emitFragment_eq, hseq, hfh, fuIndicator_eq_mask]
  simp only [fragmentPacket, decide_eq_true_eq]
  rfl

/-- Everything the fragment loop does (R137): one packet per fragment in order, `SEQ` moved by their number. -/
theorem Tx.fragmentAll_eq {body : ByteString} {m : Nat} (hm : 0 < m) (hp : m < body.length - 1) (t : Tx) :
    t.fragmentAll body m = { t with
      seq := t.seq + BitVec.ofNat 16 (fragCount (body.length - 1) m)
      pktOut := t.pktOut ++
        (List.range (fragCount (body.length - 1) m)).map (fragmentPacket t.seq t.ts t.ssrc body m) } := by
  have key : ∀ k, k ≤ fragCount (body.length - 1) m →
      (List.range k).foldl (fun t i => t.fragment body m i) t = { t with
        seq := t.seq + BitVec.ofNat 16 k
        pktOut := t.pktOut ++ (List.range k).map (fragmentPacket t.seq t.ts t.ssrc body m) } := by
    intro k hk
    induction k with
    | zero => simp
    | succ k ih =>
      rw [List.range_succ, List.foldl_append, ih (by omega)]
      simp only [List.foldl_cons, List.foldl_nil]
      rw [Tx.fragment_eq hm hp (by omega) t.seq _ rfl]
      simp
  exact key _ le_rfl

end Sys2Proof.Machine
end

