-- ==== Sys2Proof/Laws/PerInstr.lean ====
section
/-! SUPPORT. The decoder reads back what the encoder writes, one lemma per constructor. -/

namespace Sys2Proof.Laws.RoundTrip

open Sys2Proof.Machine

/-- Decoding a well-formed instruction's message gives the instruction. -/
def Statement (i : Instr) : Prop := i.wellFormed = true → decode (encode i) = .ok i

/-- A packet of at least 13 bytes, taken apart: its header, its type byte and the rest. -/
theorem packet_parts (h : RtpHeader) (x : Byte) (rest : ByteString) :
    ¬ (rtpPack h ++ x :: rest).length < Config.minRxLen ∧ rtpUnpack (rtpPack h ++ x :: rest) = h ∧
    byteAt (rtpPack h ++ x :: rest) 12 = x ∧ (rtpPack h ++ x :: rest).drop 13 = rest :=
  ⟨by simp [Config.minRxLen]; omega, rtpUnpack_rtpPack h _, rfl, rfl⟩

/-- The class of a packet by the fields of its type byte. -/
theorem classify_packet (h : RtpHeader) (f : BitVec 1) (nri : BitVec 2) (ty : BitVec 5) (rest : ByteString) :
    classify (rtpPack h ++ nalByte f nri ty :: rest) =
      classifyType ty.toNat h f nri (rtpPack h ++ nalByte f nri ty :: rest) := by
  obtain ⟨h1, h2, h3, -⟩ := packet_parts h (nalByte f nri ty) rest
  rw [classify, if_neg h1, h2, h3, nalType_nalByte, nalF_nalByte, nalNri_nalByte]

/-- The class of a packet whose type byte is an FU indicator and which has an FU header. -/
theorem classify_fuA (h : RtpHeader) (f : BitVec 1) (nri : BitVec 2) (fh : Byte) (body : ByteString) :
    classify (rtpPack h ++ fuIndicator f nri :: fh :: body) =
      if fuS fh = 1 then .rxFuStart h f nri (fuE fh) (fuR fh) (nalType fh) body
      else if fuE fh = 0 then .rxFuMid h f nri (fuR fh) (nalType fh) body
      else .rxFuEnd h f nri (fuR fh) (nalType fh) body := by
  rw [fuIndicator, classify_packet]
  show classifyFuA h f nri _ = _
  rw [classifyFuA, if_neg (by simp; omega)]
  rfl

/-- One field read back from its operand byte. -/
theorem field_read_back {w : Nat} (hw : w ≤ 8) (v : BitVec w) : (fieldByte v).setWidth w = v := by
  apply BitVec.eq_of_toNat_eq
  have h1 := v.isLt
  have h2 : 2 ^ w ≤ 2 ^ 8 := Nat.pow_le_pow_right (by norm_num) hw
  have h3 : v.toNat % 256 = v.toNat := Nat.mod_eq_of_lt (lt_of_lt_of_le h1 h2)
  simp [fieldByte, h3, Nat.mod_eq_of_lt h1]

/-- An operand byte made from a field fits the field. -/
theorem field_fits {w : Nat} (hw : w ≤ 8) (v : BitVec w) : (fieldByte v).toNat < 2 ^ w := by
  have h1 := v.isLt
  have h2 : 2 ^ w ≤ 2 ^ 8 := Nat.pow_le_pow_right (by norm_num) hw
  have h3 : v.toNat % 256 = v.toNat := Nat.mod_eq_of_lt (lt_of_lt_of_le h1 h2)
  simpa [fieldByte, h3] using h1

/-- A whole byte fits eight bits. -/
theorem byte_fits (b : Byte) : b.toNat < 2 ^ 8 := b.isLt

theorem rxTooShort (p : ByteString) : Statement (.rxTooShort p) := by
  intro h
  simp only [Instr.wellFormed, decide_eq_true_eq] at h
  simp [encode, decode, classify, h]

theorem rxSingleT01 (h : RtpHeader) (f : BitVec 1) (nri : BitVec 2) (rest : ByteString) :
    Statement (.rxSingleT01 h f nri rest) :=
  fun _ => congrArg Except.ok (classify_packet h f nri 1 rest)

theorem rxSingleT02 (h : RtpHeader) (f : BitVec 1) (nri : BitVec 2) (rest : ByteString) :
    Statement (.rxSingleT02 h f nri rest) :=
  fun _ => congrArg Except.ok (classify_packet h f nri 2 rest)

theorem rxSingleT03 (h : RtpHeader) (f : BitVec 1) (nri : BitVec 2) (rest : ByteString) :
    Statement (.rxSingleT03 h f nri rest) :=
  fun _ => congrArg Except.ok (classify_packet h f nri 3 rest)

theorem rxSingleT04 (h : RtpHeader) (f : BitVec 1) (nri : BitVec 2) (rest : ByteString) :
    Statement (.rxSingleT04 h f nri rest) :=
  fun _ => congrArg Except.ok (classify_packet h f nri 4 rest)

theorem rxSingleT05 (h : RtpHeader) (f : BitVec 1) (nri : BitVec 2) (rest : ByteString) :
    Statement (.rxSingleT05 h f nri rest) :=
  fun _ => congrArg Except.ok (classify_packet h f nri 5 rest)

theorem rxSingleT06 (h : RtpHeader) (f : BitVec 1) (nri : BitVec 2) (rest : ByteString) :
    Statement (.rxSingleT06 h f nri rest) :=
  fun _ => congrArg Except.ok (classify_packet h f nri 6 rest)

theorem rxSingleT07 (h : RtpHeader) (f : BitVec 1) (nri : BitVec 2) (rest : ByteString) :
    Statement (.rxSingleT07 h f nri rest) :=
  fun _ => congrArg Except.ok (classify_packet h f nri 7 rest)

theorem rxSingleT08 (h : RtpHeader) (f : BitVec 1) (nri : BitVec 2) (rest : ByteString) :
    Statement (.rxSingleT08 h f nri rest) :=
  fun _ => congrArg Except.ok (classify_packet h f nri 8 rest)

theorem rxSingleT09 (h : RtpHeader) (f : BitVec 1) (nri : BitVec 2) (rest : ByteString) :
    Statement (.rxSingleT09 h f nri rest) :=
  fun _ => congrArg Except.ok (classify_packet h f nri 9 rest)

theorem rxSingleT10 (h : RtpHeader) (f : BitVec 1) (nri : BitVec 2) (rest : ByteString) :
    Statement (.rxSingleT10 h f nri rest) :=
  fun _ => congrArg Except.ok (classify_packet h f nri 10 rest)

theorem rxSingleT11 (h : RtpHeader) (f : BitVec 1) (nri : BitVec 2) (rest : ByteString) :
    Statement (.rxSingleT11 h f nri rest) :=
  fun _ => congrArg Except.ok (classify_packet h f nri 11 rest)

theorem rxSingleT12 (h : RtpHeader) (f : BitVec 1) (nri : BitVec 2) (rest : ByteString) :
    Statement (.rxSingleT12 h f nri rest) :=
  fun _ => congrArg Except.ok (classify_packet h f nri 12 rest)

theorem rxSingleT13 (h : RtpHeader) (f : BitVec 1) (nri : BitVec 2) (rest : ByteString) :
    Statement (.rxSingleT13 h f nri rest) :=
  fun _ => congrArg Except.ok (classify_packet h f nri 13 rest)

theorem rxSingleT14 (h : RtpHeader) (f : BitVec 1) (nri : BitVec 2) (rest : ByteString) :
    Statement (.rxSingleT14 h f nri rest) :=
  fun _ => congrArg Except.ok (classify_packet h f nri 14 rest)

theorem rxSingleT15 (h : RtpHeader) (f : BitVec 1) (nri : BitVec 2) (rest : ByteString) :
    Statement (.rxSingleT15 h f nri rest) :=
  fun _ => congrArg Except.ok (classify_packet h f nri 15 rest)

theorem rxSingleT16 (h : RtpHeader) (f : BitVec 1) (nri : BitVec 2) (rest : ByteString) :
    Statement (.rxSingleT16 h f nri rest) :=
  fun _ => congrArg Except.ok (classify_packet h f nri 16 rest)

theorem rxSingleT17 (h : RtpHeader) (f : BitVec 1) (nri : BitVec 2) (rest : ByteString) :
    Statement (.rxSingleT17 h f nri rest) :=
  fun _ => congrArg Except.ok (classify_packet h f nri 17 rest)

theorem rxSingleT18 (h : RtpHeader) (f : BitVec 1) (nri : BitVec 2) (rest : ByteString) :
    Statement (.rxSingleT18 h f nri rest) :=
  fun _ => congrArg Except.ok (classify_packet h f nri 18 rest)

theorem rxSingleT19 (h : RtpHeader) (f : BitVec 1) (nri : BitVec 2) (rest : ByteString) :
    Statement (.rxSingleT19 h f nri rest) :=
  fun _ => congrArg Except.ok (classify_packet h f nri 19 rest)

theorem rxSingleT20 (h : RtpHeader) (f : BitVec 1) (nri : BitVec 2) (rest : ByteString) :
    Statement (.rxSingleT20 h f nri rest) :=
  fun _ => congrArg Except.ok (classify_packet h f nri 20 rest)

theorem rxSingleT21 (h : RtpHeader) (f : BitVec 1) (nri : BitVec 2) (rest : ByteString) :
    Statement (.rxSingleT21 h f nri rest) :=
  fun _ => congrArg Except.ok (classify_packet h f nri 21 rest)

theorem rxSingleT22 (h : RtpHeader) (f : BitVec 1) (nri : BitVec 2) (rest : ByteString) :
    Statement (.rxSingleT22 h f nri rest) :=
  fun _ => congrArg Except.ok (classify_packet h f nri 22 rest)

theorem rxSingleT23 (h : RtpHeader) (f : BitVec 1) (nri : BitVec 2) (rest : ByteString) :
    Statement (.rxSingleT23 h f nri rest) :=
  fun _ => congrArg Except.ok (classify_packet h f nri 23 rest)

theorem rxOtherT00 (h : RtpHeader) (f : BitVec 1) (nri : BitVec 2) (rest : ByteString) :
    Statement (.rxOtherT00 h f nri rest) :=
  fun _ => congrArg Except.ok (classify_packet h f nri 0 rest)

theorem rxOtherT24 (h : RtpHeader) (f : BitVec 1) (nri : BitVec 2) (rest : ByteString) :
    Statement (.rxOtherT24 h f nri rest) :=
  fun _ => congrArg Except.ok (classify_packet h f nri 24 rest)

theorem rxOtherT25 (h : RtpHeader) (f : BitVec 1) (nri : BitVec 2) (rest : ByteString) :
    Statement (.rxOtherT25 h f nri rest) :=
  fun _ => congrArg Except.ok (classify_packet h f nri 25 rest)

theorem rxOtherT26 (h : RtpHeader) (f : BitVec 1) (nri : BitVec 2) (rest : ByteString) :
    Statement (.rxOtherT26 h f nri rest) :=
  fun _ => congrArg Except.ok (classify_packet h f nri 26 rest)

theorem rxOtherT27 (h : RtpHeader) (f : BitVec 1) (nri : BitVec 2) (rest : ByteString) :
    Statement (.rxOtherT27 h f nri rest) :=
  fun _ => congrArg Except.ok (classify_packet h f nri 27 rest)

theorem rxOtherT29 (h : RtpHeader) (f : BitVec 1) (nri : BitVec 2) (rest : ByteString) :
    Statement (.rxOtherT29 h f nri rest) :=
  fun _ => congrArg Except.ok (classify_packet h f nri 29 rest)

theorem rxOtherT30 (h : RtpHeader) (f : BitVec 1) (nri : BitVec 2) (rest : ByteString) :
    Statement (.rxOtherT30 h f nri rest) :=
  fun _ => congrArg Except.ok (classify_packet h f nri 30 rest)

theorem rxOtherT31 (h : RtpHeader) (f : BitVec 1) (nri : BitVec 2) (rest : ByteString) :
    Statement (.rxOtherT31 h f nri rest) :=
  fun _ => congrArg Except.ok (classify_packet h f nri 31 rest)

theorem rxFuTrunc (h : RtpHeader) (f : BitVec 1) (nri : BitVec 2) : Statement (.rxFuTrunc h f nri) := by
  intro _
  rw [encode]
  show Except.ok (classify (rtpPack h ++ [nalByte f nri Config.fuaType])) = _
  rw [classify_packet]
  show Except.ok (classifyFuA h f nri _) = _
  rw [classifyFuA, if_pos (by simp)]

theorem rxFuStart (h : RtpHeader) (f : BitVec 1) (nri : BitVec 2) (e r : BitVec 1) (ty : BitVec 5) (body : ByteString) :
    Statement (.rxFuStart h f nri e r ty body) := by
  intro _
  simp [encode, decode, classify_fuA]

theorem rxFuMid (h : RtpHeader) (f : BitVec 1) (nri : BitVec 2) (r : BitVec 1) (ty : BitVec 5) (body : ByteString) :
    Statement (.rxFuMid h f nri r ty body) := by
  intro _
  simp [encode, decode, classify_fuA]

theorem rxFuEnd (h : RtpHeader) (f : BitVec 1) (nri : BitVec 2) (r : BitVec 1) (ty : BitVec 5) (body : ByteString) :
    Statement (.rxFuEnd h f nri r ty body) := by
  intro _
  simp [encode, decode, classify_fuA]

theorem txSingle (f : BitVec 1) (nri : BitVec 2) (ty : BitVec 5) (rest : ByteString) :
    Statement (.txSingle f nri ty rest) := by
  intro _
  simp [encode, decode, decodeTxSingle, txPattern, byteAt, add_assoc]

theorem txFuStart (f : BitVec 1) (nri : BitVec 2) (ty : BitVec 5) (slice : ByteString) :
    Statement (.txFuStart f nri ty slice) := by
  intro _
  simp [encode, decode, decodeTxFragment, txPattern, byteAt, add_assoc]

theorem txFuMid (f : BitVec 1) (nri : BitVec 2) (ty : BitVec 5) (slice : ByteString) :
    Statement (.txFuMid f nri ty slice) := by
  intro _
  simp [encode, decode, decodeTxFragment, txPattern, byteAt, add_assoc]

theorem txFuEnd (f : BitVec 1) (nri : BitVec 2) (ty : BitVec 5) (slice : ByteString) :
    Statement (.txFuEnd f nri ty slice) := by
  intro _
  simp [encode, decode, decodeTxFragment, txPattern, byteAt, add_assoc]

theorem structRtpHeader (h : RtpHeader) : Statement (.structRtpHeader h) := by
  intro _
  have := rtpUnpack_rtpPack h []
  rw [List.append_nil] at this
  simp [encode, decode, withWidth, this]

theorem structNalHeaderH264 (f : BitVec 1) (nri : BitVec 2) (ty : BitVec 5) :
    Statement (.structNalHeaderH264 f nri ty) := by
  intro _; simp [encode, decode, withWidth]

theorem structFuIndicatorH264 (f : BitVec 1) (nri : BitVec 2) : Statement (.structFuIndicatorH264 f nri) := by
  intro _; simp [encode, decode, withWidth]

theorem structFuHeaderH264 (sb e : BitVec 1) (ty : BitVec 5) : Statement (.structFuHeaderH264 sb e ty) := by
  intro _; simp [encode, decode, withWidth]

theorem structNalHeaderH265 (f : BitVec 1) (ty layerId : BitVec 6) (tid : BitVec 3) :
    Statement (.structNalHeaderH265 f ty layerId tid) := by
  intro _
  obtain ⟨h1, h2, h3, h4⟩ := nal265_fields f ty layerId tid []
  rw [List.append_nil] at h1 h2 h3 h4
  have h5 : (nal265Pack f ty layerId tid).length = 2 := rfl
  simp [encode, decode, withWidth, h1, h2, h3, h4, h5]

theorem structFuHeaderH265 (sb e : BitVec 1) (fuType : BitVec 6) : Statement (.structFuHeaderH265 sb e fuType) := by
  intro _; simp [encode, decode, withWidth]

theorem rtpDec (b : ByteString) : Statement (.rtpDec b) := by
  intro _; simp [encode, decode, opFrame, decodeOpFrame, decodeOperation]

theorem nalhDec (b : ByteString) : Statement (.nalhDec b) := by
  intro _; simp [encode, decode, opFrame, decodeOpFrame, decodeOperation]

theorem fuiDec (b : ByteString) : Statement (.fuiDec b) := by
  intro _; simp [encode, decode, opFrame, decodeOpFrame, decodeOperation]

theorem fuhDec (b : ByteString) : Statement (.fuhDec b) := by
  intro _; simp [encode, decode, opFrame, decodeOpFrame, decodeOperation]

theorem nalh265Dec (b : ByteString) : Statement (.nalh265Dec b) := by
  intro _; simp [encode, decode, opFrame, decodeOpFrame, decodeOperation]

theorem fuh265Dec (b : ByteString) : Statement (.fuh265Dec b) := by
  intro _; simp [encode, decode, opFrame, decodeOpFrame, decodeOperation]

theorem onPacket (b : ByteString) : Statement (.onPacket b) := by
  intro _; simp [encode, decode, opFrame, decodeOpFrame, decodeOperation]

/-- Operands of the right number and widths are accepted. -/
theorem withFields_ok {widths : List Nat} {b : ByteString} (i : Instr) (hl : b.length = widths.length)
    (hf : (widths.zip b).all (fun x => decide (x.2.toNat < 2 ^ x.1)) = true) : withFields widths b i = .ok i := by
  rw [withFields, if_neg (by omega), if_neg (by omega), if_pos hf]

/-- Decoding the message of operation `k`. -/
theorem decode_opFrame (k : Byte) (b : ByteString) :
    decode (opFrame k b) = decodeOperation (k.extractLsb' 0 5).toNat b := rfl

/-- The operands of `RTP_ENC` read back. -/
theorem rtpOperands_read_back (h : RtpHeader) :
    rtpOperands ([fieldByte h.v, fieldByte h.p, fieldByte h.x, fieldByte h.cc, fieldByte h.m, fieldByte h.pt]
      ++ toBe16 h.seq ++ toBe32 h.ts ++ toBe32 h.ssrc) = h := by
  have h1 := be16_toBe16 h.seq (toBe32 h.ts ++ toBe32 h.ssrc)
  have h2 := be32_toBe32 h.ts (toBe32 h.ssrc)
  have h3 := be32_toBe32 h.ssrc []
  have e1 := field_read_back (by norm_num) h.v
  have e2 := field_read_back (by norm_num) h.p
  have e3 := field_read_back (by norm_num) h.x
  have e4 := field_read_back (by norm_num) h.cc
  have e5 := field_read_back (by norm_num) h.m
  have e6 := field_read_back (by norm_num) h.pt
  cases h
  simp only [RtpHeader.mk.injEq, rtpOperands]
  exact ⟨e1, e2, e3, e4, e5, e6, h1, h2, h3⟩

theorem rtpEnc (h : RtpHeader) : Statement (.rtpEnc h) := by
  intro _
  have fits : ([2, 1, 1, 4, 1, 7, 8, 8, 8, 8, 8, 8, 8, 8, 8, 8].zip
      ([fieldByte h.v, fieldByte h.p, fieldByte h.x, fieldByte h.cc, fieldByte h.m, fieldByte h.pt]
        ++ toBe16 h.seq ++ toBe32 h.ts ++ toBe32 h.ssrc)).all (fun x => decide (x.2.toNat < 2 ^ x.1)) = true := by
    simp only [toBe16, toBe32, List.cons_append, List.nil_append, List.zip_cons_cons, List.zip_nil_left, List.all_cons,
      List.all_nil, Bool.and_eq_true, decide_eq_true_eq, byte_fits, field_fits (show 2 ≤ 8 by norm_num),
      field_fits (show 1 ≤ 8 by norm_num), field_fits (show 4 ≤ 8 by norm_num), field_fits (show 7 ≤ 8 by norm_num),
      and_self]
  rw [encode, decode_opFrame]
  show withFields _ _ _ = _
  rw [rtpOperands_read_back]
  exact withFields_ok _ rfl fits

theorem nalhEnc (f : BitVec 1) (nri : BitVec 2) (ty : BitVec 5) : Statement (.nalhEnc f nri ty) := by
  intro _
  rw [encode, decode_opFrame]
  refine (withFields_ok _ rfl ?_).trans ?_
  · simp only [List.zip_cons_cons, List.zip_nil_left, List.all_cons, List.all_nil, Bool.and_eq_true, decide_eq_true_eq,
      field_fits (show 1 ≤ 8 by norm_num), field_fits (show 2 ≤ 8 by norm_num), field_fits (show 5 ≤ 8 by norm_num), and_self]
  · simp [operandField, field_read_back (show 1 ≤ 8 by norm_num), field_read_back (show 2 ≤ 8 by norm_num), field_read_back (show 5 ≤ 8 by norm_num)]

theorem fuiEnc (f : BitVec 1) (nri : BitVec 2) : Statement (.fuiEnc f nri) := by
  intro _
  rw [encode, decode_opFrame]
  refine (withFields_ok _ rfl ?_).trans ?_
  · simp only [List.zip_cons_cons, List.zip_nil_left, List.all_cons, List.all_nil, Bool.and_eq_true, decide_eq_true_eq,
      field_fits (show 1 ≤ 8 by norm_num), field_fits (show 2 ≤ 8 by norm_num), and_self]
  · simp [operandField, field_read_back (show 1 ≤ 8 by norm_num), field_read_back (show 2 ≤ 8 by norm_num)]

theorem fuhEnc (sb e : BitVec 1) (ty : BitVec 5) : Statement (.fuhEnc sb e ty) := by
  intro _
  rw [encode, decode_opFrame]
  refine (withFields_ok _ rfl ?_).trans ?_
  · simp only [List.zip_cons_cons, List.zip_nil_left, List.all_cons, List.all_nil, Bool.and_eq_true, decide_eq_true_eq,
      field_fits (show 1 ≤ 8 by norm_num), field_fits (show 5 ≤ 8 by norm_num), and_self]
  · simp [operandField, field_read_back (show 1 ≤ 8 by norm_num), field_read_back (show 5 ≤ 8 by norm_num)]

theorem nalh265Enc (f : BitVec 1) (ty layerId : BitVec 6) (tid : BitVec 3) : Statement (.nalh265Enc f ty layerId tid) := by
  intro _
  rw [encode, decode_opFrame]
  refine (withFields_ok _ rfl ?_).trans ?_
  · simp only [List.zip_cons_cons, List.zip_nil_left, List.all_cons, List.all_nil, Bool.and_eq_true, decide_eq_true_eq,
      field_fits (show 1 ≤ 8 by norm_num), field_fits (show 3 ≤ 8 by norm_num), field_fits (show 6 ≤ 8 by norm_num), and_self]
  · simp [operandField, field_read_back (show 1 ≤ 8 by norm_num), field_read_back (show 3 ≤ 8 by norm_num), field_read_back (show 6 ≤ 8 by norm_num)]

theorem fuh265Enc (sb e : BitVec 1) (fuType : BitVec 6) : Statement (.fuh265Enc sb e fuType) := by
  intro _
  rw [encode, decode_opFrame]
  refine (withFields_ok _ rfl ?_).trans ?_
  · simp only [List.zip_cons_cons, List.zip_nil_left, List.all_cons, List.all_nil, Bool.and_eq_true, decide_eq_true_eq,
      field_fits (show 1 ≤ 8 by norm_num), field_fits (show 6 ≤ 8 by norm_num), and_self]
  · simp [operandField, field_read_back (show 1 ≤ 8 by norm_num), field_read_back (show 6 ≤ 8 by norm_num)]

theorem packetize (u : ByteString) (fps : BitVec 32) : Statement (.packetize u fps) := by
  intro _
  rw [encode, decode_opFrame]
  have h : decodeOperation (BitVec.extractLsb' 0 5 (13 : Byte)).toNat (toBe32 fps ++ u) =
      if (toBe32 fps ++ u).length < 4 then .error .truncatedFrame
      else .ok (.packetize ((toBe32 fps ++ u).drop 4) (be32 (toBe32 fps ++ u) 0)) := rfl
  rw [h, if_neg (by simp), be32_toBe32]
  rfl

theorem seqNext : Statement .seqNext := by
  intro _; rfl

/-- Whole bytes fit eight bits each. -/
theorem bytes_fit (ws : List Nat) (b : ByteString) (h : ∀ w ∈ ws, w = 8) :
    (ws.zip b).all (fun x => decide (x.2.toNat < 2 ^ x.1)) = true := by
  rw [List.all_eq_true]
  intro x hx
  have := h x.1 (List.of_mem_zip hx).1
  rw [this]
  exact decide_eq_true (byte_fits x.2)

theorem tsAdvance (fps : BitVec 32) : Statement (.tsAdvance fps) := by
  intro _
  have h := be32_toBe32 fps []
  rw [List.append_nil] at h
  rw [encode, decode_opFrame]
  show withFields _ _ (.tsAdvance _) = _
  rw [h]
  exact withFields_ok _ rfl (bytes_fit _ _ (by simp))

theorem rxReset (maxNalu : Nat) : Statement (.rxReset maxNalu) := by
  intro _
  rw [encode, decode_opFrame]
  show Except.ok (Instr.rxReset _) = _
  rw [natOfBytes_natToBytes]

theorem txReset (maxPayload : BitVec 16) (ssrc : BitVec 32) (seq : BitVec 16) (ts : BitVec 32) :
    Statement (.txReset maxPayload ssrc seq ts) := by
  intro _
  have h1 : be16 (toBe16 maxPayload ++ toBe32 ssrc ++ toBe16 seq ++ toBe32 ts) 0 = maxPayload :=
    be16_toBe16 maxPayload (toBe32 ssrc ++ toBe16 seq ++ toBe32 ts)
  have h2 : be32 (toBe16 maxPayload ++ toBe32 ssrc ++ toBe16 seq ++ toBe32 ts) 2 = ssrc :=
    be32_toBe32 ssrc (toBe16 seq ++ toBe32 ts)
  have h3 : be16 (toBe16 maxPayload ++ toBe32 ssrc ++ toBe16 seq ++ toBe32 ts) 6 = seq := be16_toBe16 seq (toBe32 ts)
  have h4 : be32 (toBe16 maxPayload ++ toBe32 ssrc ++ toBe16 seq ++ toBe32 ts) 8 = ts := be32_toBe32 ts []
  rw [encode, decode_opFrame]
  show withFields _ _ (.txReset _ _ _ _) = _
  rw [h1, h2, h3, h4]
  exact withFields_ok _ rfl (bytes_fit _ _ (by simp))

end Sys2Proof.Laws.RoundTrip
end

