-- ==== Sys2Proof/Laws/Step.lean ====
section
/-! SUPPORT. Everything an instruction can do, said once: the arms of the receive side, the moves of the transmit side, and
`exec` as a choice among them. -/

namespace Sys2Proof.Machine

/-- The type of a byte as a number. -/
theorem nalType_toNat (x : Byte) : (nalType x).toNat = x.toNat % 32 := by revert x; decide

/-- `ON_PACKET` by cases on the packet, in the numbers of R110: each packet falls under exactly one of them. -/
theorem Rx.onPacket_cases (p : ByteString) (r : Rx) :
    let r1 := r.pushDiag (rtpUnpack p)
    let t := (byteAt p 12).toNat % 32
    let fh := (byteAt p 13).toNat
    (p.length < 13 ∧ r.onPacket p = .next (r.finish .packetTooShort)) ∨
    (13 ≤ p.length ∧ 1 ≤ t ∧ t ≤ 23 ∧ r.onPacket p = r1.single (byteAt p 12) (p.drop 13)) ∨
    (p.length = 13 ∧ t = 28 ∧ r.onPacket p = .next (r1.finish .truncatedInput)) ∨
    (14 ≤ p.length ∧ t = 28 ∧ 128 ≤ fh ∧ r.onPacket p = r1.fuStart (byteAt p 12) (byteAt p 13) (p.drop 14)) ∨
    (14 ≤ p.length ∧ t = 28 ∧ fh < 64 ∧ r.onPacket p = r1.fuMid (p.drop 14)) ∨
    (14 ≤ p.length ∧ t = 28 ∧ 64 ≤ fh ∧ fh < 128 ∧ r.onPacket p = r1.fuEnd (p.drop 14)) ∨
    (13 ≤ p.length ∧ t ∈ [0, 24, 25, 26, 27, 29, 30, 31] ∧ r.onPacket p = .next (r1.finish .unclassifiedNaluType)) := by
  dsimp only
  by_cases hn : p.length < 13
  · left; exact ⟨hn, by simp [Rx.onPacket, hn, Config.minRxLen]⟩
  have hm := nalType_toNat (byteAt p 12)
  have hfs : ∀ x : Byte, fuS x = 1 ↔ 128 ≤ x.toNat := by decide
  have hfe : ∀ x : Byte, ¬ fuS x = 1 → (fuE x = 0 ↔ x.toNat < 64) := by decide
  have h28 : ∀ t : BitVec 5, t = Config.fuaType ↔ t.toNat = 28 := by decide
  unfold Rx.onPacket
  simp only [Config.minRxLen, hn, if_false, Config.singleMin, Config.singleMax, h28, hm, List.mem_cons,
    List.not_mem_nil, or_false, false_and, false_or]
  by_cases h1 : 1 ≤ (byteAt p 12).toNat % 32 ∧ (byteAt p 12).toNat % 32 ≤ 23
  · left; exact ⟨by omega, h1.1, h1.2, by rw [if_pos h1]⟩
  rw [if_neg h1]
  by_cases h2 : (byteAt p 12).toNat % 32 = 28
  · rw [if_pos h2]
    by_cases h3 : p.length < 14
    · right; left; exact ⟨by omega, h2, by rw [if_pos h3]; rfl⟩
    rw [if_neg h3]
    by_cases h4 : fuS (byteAt p 13) = 1
    · right; right; left; exact ⟨by omega, h2, (hfs _).1 h4, by rw [if_pos h4]⟩
    have h5 : ¬ 128 ≤ (byteAt p 13).toNat := fun h => h4 ((hfs _).2 h)
    have h6 := hfe _ h4
    rw [if_neg h4]
    by_cases h7 : fuE (byteAt p 13) = 0
    · right; right; right; left; exact ⟨by omega, h2, h6.1 h7, by rw [if_pos h7]⟩
    · right; right; right; right; left
      exact ⟨by omega, h2, by by_contra hc; exact h7 (h6.2 (by omega)), by omega, by rw [if_neg h7]⟩
  · right; right; right; right; right
    exact ⟨by omega, by omega, by rw [if_neg h2]; rfl⟩

/-- What a receive class does after the diagnostic: the arms of R110, from `r` to the second argument (R122). -/
inductive Rx.Arm (r : Rx) : Rx → Prop where
  | truncated : Rx.Arm r (r.finish .truncatedInput)
  | other : Rx.Arm r (r.finish .unclassifiedNaluType)
  | dropped (h : r.accLen = 0) : Rx.Arm r (r.finish .ok)
  | overflow : Rx.Arm r ((r.setAccLen 0).finish .reassemblyOverflow)
  | single (hdr : Byte) (rest : ByteString) (h : 5 + rest.length ≤ r.maxNalu) :
      Rx.Arm r (((((r.setAccLen 0).startUnit hdr rest).pushNalu (Config.startCode ++ hdr :: rest)).setAccLen 0).finish .ok)
  | start (hdr : Byte) (body : ByteString) (h : 5 + body.length ≤ r.maxNalu) :
      Rx.Arm r (((r.setAccLen 0).startUnit hdr body).finish .ok)
  | mid (body : ByteString) (h0 : r.accLen ≠ 0) (h : r.accLen + body.length ≤ r.maxNalu) :
      Rx.Arm r ((r.append body).finish .ok)
  | fin (body u : ByteString) (h0 : r.accLen ≠ 0) (h : r.accLen + body.length ≤ r.maxNalu)
      (hu : (r.append body).acc.readBytes 0 (r.accLen + body.length) = .ok u) :
      Rx.Arm r ((((r.append body).pushNalu u).setAccLen 0).finish .ok)

theorem Rx.single_arm {hdr : Byte} {rest : ByteString} {r r' : Rx} (h : r.single hdr rest = .next r') : r.Arm r' := by
  rw [Rx.single_eq] at h
  split at h <;> cases h
  · exact .overflow
  · exact .single _ _ (by omega)

theorem Rx.fuStart_arm {b0 fh : Byte} {body : ByteString} {r r' : Rx} (h : r.fuStart b0 fh body = .next r') :
    r.Arm r' := by
  rw [Rx.fuStart_eq] at h
  split at h <;> cases h
  · exact .overflow
  · exact .start _ _ (by omega)

theorem Rx.fuMid_arm {body : ByteString} {r r' : Rx} (h : r.fuMid body = .next r') : r.Arm r' := by
  rw [Rx.fuMid_eq] at h
  split at h
  · cases h; exact .dropped (by assumption)
  · split at h <;> cases h
    · exact .overflow
    · exact .mid _ (by assumption) (by omega)

theorem Rx.fuEnd_arm {body : ByteString} {r r' : Rx} (h : r.fuEnd body = .next r') : r.Arm r' := by
  obtain ⟨h0, rfl⟩ | ⟨-, -, rfl⟩ | ⟨h0, h1, u, hu, rfl⟩ := Rx.fuEnd_eq_next h
  · exact .dropped h0
  · exact .overflow
  · exact .fin _ u h0 h1 hu

/-- Everything an instruction other than `RX_RESET` can do to the receive instance. -/
inductive Rx.Move (r : Rx) : Rx → Prop where
  | tooShort : Rx.Move r (r.finish .packetTooShort)
  | arm (h : RtpHeader) {r' : Rx} (ha : (r.pushDiag h).Arm r') : Rx.Move r r'

/-- `ON_PACKET` is the length check or the arm of its class, with the packet's own header on `rx_diag`. -/
theorem Rx.onPacket_arm {p : ByteString} {r r' : Rx} (h : r.onPacket p = .next r') :
    (p.length < 13 ∧ r' = r.finish .packetTooShort) ∨ (13 ≤ p.length ∧ (r.pushDiag (rtpUnpack p)).Arm r') := by
  rcases Rx.onPacket_cases p r with ⟨hl, e⟩ | ⟨hl, -, -, e⟩ | ⟨hl, -, e⟩ | ⟨hl, -, -, e⟩ | ⟨hl, -, -, e⟩ | ⟨hl, -, -, -, e⟩ |
    ⟨hl, -, e⟩ <;> rw [e] at h
  · cases h; exact .inl ⟨hl, rfl⟩
  · exact .inr ⟨hl, Rx.single_arm h⟩
  · cases h; exact .inr ⟨by omega, .truncated⟩
  · exact .inr ⟨by omega, Rx.fuStart_arm h⟩
  · exact .inr ⟨by omega, Rx.fuMid_arm h⟩
  · exact .inr ⟨by omega, Rx.fuEnd_arm h⟩
  · cases h; exact .inr ⟨hl, .other⟩

/-- Everything an instruction other than `TX_RESET` can do to the transmit instance. -/
inductive Tx.Move (t : Tx) : Tx → Prop where
  | raise (k : Status) (h : k = .payloadTooSmall ∨ k = .badFrameRate) : Tx.Move t (t.finish k)
  | badRate : Tx.Move t (t.done .badFrameRate)
  | seqNext : Tx.Move t (t.seqNext.done .ok)
  | tsAdvance (fps : BitVec 32) (h : fps ≠ 0) : Tx.Move t ((t.tsAdvance fps).done .ok)
  | single (hdr : Byte) (rest : ByteString) : Tx.Move t ((t.emitSingle (hdr :: rest)).done .ok)
  | fragment (hdr : Byte) (s e : BitVec 1) (slice : ByteString) : Tx.Move t ((t.emitFragment hdr s e slice).done .ok)
  | sendUnit (u : ByteString) (fps : BitVec 32) (h0 : t.maxPayload ≠ 0) (h1 : 6 ≤ u.length) (h2 : fps ≠ 0) :
      Tx.Move t ((t.sendUnit u fps).finish .ok)

/-- Everything `PACKETIZE` can do (R130, R167, R184). -/
theorem Tx.packetize_eq (u : ByteString) (fps : BitVec 32) (t : Tx) : t.packetize u fps =
    if t.maxPayload = 0 then .refused .illegalMaxPayload
    else .next (if u.length < 6 then t.finish .payloadTooSmall
      else if fps = 0 then t.finish .badFrameRate else (t.sendUnit u fps).finish .ok) := by
  unfold Tx.packetize
  simp only [Config.minTxLen]
  split
  · rfl
  · by_cases h : u.length < 6
    · simp [h]
    · by_cases hf : fps = 0 <;> simp only [h, hf, if_true, if_false, Tx.raise_eq, Tx.returnOk_eq]

/-- Everything the accepted part of `PACKETIZE` does (R130): the timestamp, then one packet or the fragments in order. -/
theorem Tx.sendUnit_eq {u : ByteString} {fps : BitVec 32} {t : Tx} (hm : t.maxPayload ≠ 0) :
    t.sendUnit u fps =
      if u.length - 5 ≤ t.maxPayload.toNat then (t.tsAdvance fps).emitSingle (u.drop 4)
      else { t with
        seq := t.seq + BitVec.ofNat 16 (fragCount (u.length - 5) t.maxPayload.toNat)
        ts := (t.tsAdvance fps).ts
        pktOut := t.pktOut ++ (List.range (fragCount (u.length - 5) t.maxPayload.toNat)).map
          (fragmentPacket t.seq (t.tsAdvance fps).ts t.ssrc (u.drop 4) t.maxPayload.toNat) } := by
  have hl : (u.drop Config.startCodeLen).length - 1 = u.length - 5 := by simp [Config.startCodeLen]; omega
  have hm' : 0 < t.maxPayload.toNat := by
    have : t.maxPayload.toNat ≠ 0 := fun h => hm (BitVec.eq_of_toNat_eq h)
    omega
  unfold Tx.sendUnit
  dsimp only
  rw [hl]
  split
  · rfl
  · rw [Tx.fragmentAll_eq hm' (by omega), hl]
    rfl

/-- What the codec can give its caller, with the status it ends with (R102, R161). -/
inductive CodecResult.Ends : CodecResult → Status → Prop where
  | failed : CodecResult.Ends (.raised .truncatedInput) .truncatedInput
  | gave {c : CodecResult} (h : c ≠ .raised .truncatedInput) : CodecResult.Ends c .ok

/-- What an instruction that answers a next state has done (R11, R40): one move of its own agent, a reset of it, or one
codec result with its status. -/
theorem exec_cases {i : Instr} {s t : State} (h : exec i s = .next t) :
    (agentOf i = .rx ∧ ∃ r, s.rx.Move r ∧ t = { s with rx := r }) ∨
    (agentOf i = .tx ∧ ∃ x, s.tx.Move x ∧ t = { s with tx := x }) ∨
    (agentOf i = .codec ∧ ∃ c k, c.Ends k ∧ t = s.giveCodec c k) ∨
    (∃ n, i = .rxReset n ∧ t = { s with rx := (s.rx.construct n).done .ok }) ∨
    (∃ mp c q ts, i = .txReset mp c q ts ∧ t = { s with tx := (s.tx.construct mp c q ts).done .ok }) := by
  have hdec : ∀ {w : Nat} {f : ByteString → CodecResult} {b : ByteString},
      decodeStructure w f b s = .next t → (∀ x, f x ≠ .raised .truncatedInput) →
      ∃ c k, c.Ends k ∧ t = s.giveCodec c k := by
    intro w f b hh hf
    unfold decodeStructure at hh
    split at hh <;> cases hh
    · exact ⟨_, _, .failed, rfl⟩
    · exact ⟨_, _, .gave (hf _), rfl⟩
  have henc : ∀ {b : ByteString}, encodeStructure b s = .next t → ∃ c k, c.Ends k ∧ t = s.giveCodec c k := by
    intro b hh
    unfold encodeStructure at hh
    cases hh; exact ⟨_, _, .gave (by simp), rfl⟩
  have hsingle : ∀ {ty : BitVec 5} {hd : RtpHeader} {f : BitVec 1} {nri : BitVec 2} {rest : ByteString},
      rxSingle ty hd f nri rest s = .next t → ∃ r, s.rx.Move r ∧ t = { s with rx := r } := by
    intro ty hd f nri rest hh
    obtain ⟨r, hr, rfl⟩ := State.onRx_eq_next.1 hh
    exact ⟨r, .arm hd (Rx.single_arm hr), rfl⟩
  have hother : ∀ {hd : RtpHeader}, rxOther hd s = .next t → ∃ r, s.rx.Move r ∧ t = { s with rx := r } := by
    intro hd hh
    obtain ⟨r, hr, rfl⟩ := State.onRx_eq_next.1 hh
    cases hr
    exact ⟨_, .arm hd .other, rfl⟩
  cases i
  case rxTooShort p =>
    unfold exec execRxTooShort at h
    obtain ⟨r, hr, rfl⟩ := State.onRx_eq_next.1 h
    cases hr
    exact .inl ⟨rfl, _, .tooShort, rfl⟩
  case rxFuTrunc hd f nri =>
    unfold exec execRxFuTrunc at h
    obtain ⟨r, hr, rfl⟩ := State.onRx_eq_next.1 h
    cases hr
    exact .inl ⟨rfl, _, .arm hd .truncated, rfl⟩
  case rxFuStart hd f nri e r ty body =>
    unfold exec execRxFuStart at h
    obtain ⟨r, hr, rfl⟩ := State.onRx_eq_next.1 h
    exact .inl ⟨rfl, _, .arm hd (Rx.fuStart_arm hr), rfl⟩
  case rxFuMid hd f nri r ty body =>
    unfold exec execRxFuMid at h
    obtain ⟨r, hr, rfl⟩ := State.onRx_eq_next.1 h
    exact .inl ⟨rfl, _, .arm hd (Rx.fuMid_arm hr), rfl⟩
  case rxFuEnd hd f nri r ty body =>
    unfold exec execRxFuEnd at h
    obtain ⟨r, hr, rfl⟩ := State.onRx_eq_next.1 h
    exact .inl ⟨rfl, _, .arm hd (Rx.fuEnd_arm hr), rfl⟩
  case onPacket p =>
    unfold exec execOnPacket at h
    obtain ⟨r, hr, rfl⟩ := State.onRx_eq_next.1 h
    rcases Rx.onPacket_arm hr with ⟨-, rfl⟩ | ⟨-, ha⟩
    · exact .inl ⟨rfl, _, .tooShort, rfl⟩
    · exact .inl ⟨rfl, _, .arm _ ha, rfl⟩
  case rxReset n =>
    unfold exec execRxReset at h
    obtain ⟨r, hr, rfl⟩ := State.onRx_eq_next.1 h
    cases hr
    exact .inr (.inr (.inr (.inl ⟨n, rfl, rfl⟩)))
  case txSingle f nri ty rest =>
    unfold exec execTxSingle at h
    obtain ⟨x, hx, rfl⟩ := State.onTx_eq_next.1 h
    cases hx
    exact .inr (.inl ⟨rfl, _, .single _ _, rfl⟩)
  case txFuStart f nri ty b =>
    unfold exec execTxFuStart at h
    obtain ⟨x, hx, rfl⟩ := State.onTx_eq_next.1 h
    cases hx
    exact .inr (.inl ⟨rfl, _, .fragment _ _ _ _, rfl⟩)
  case txFuMid f nri ty b =>
    unfold exec execTxFuMid at h
    obtain ⟨x, hx, rfl⟩ := State.onTx_eq_next.1 h
    cases hx
    exact .inr (.inl ⟨rfl, _, .fragment _ _ _ _, rfl⟩)
  case txFuEnd f nri ty b =>
    unfold exec execTxFuEnd at h
    obtain ⟨x, hx, rfl⟩ := State.onTx_eq_next.1 h
    cases hx
    exact .inr (.inl ⟨rfl, _, .fragment _ _ _ _, rfl⟩)
  case packetize u fps =>
    unfold exec execPacketize at h
    obtain ⟨x, hx, rfl⟩ := State.onTx_eq_next.1 h
    rw [Tx.packetize_eq] at hx
    split at hx
    · cases hx
    · rename_i hm
      cases hx
      refine .inr (.inl ⟨rfl, _, ?_, rfl⟩)
      split
      · exact .raise _ (.inl rfl)
      · split
        · exact .raise _ (.inr rfl)
        · exact .sendUnit u fps hm (by omega) (by assumption)
  case seqNext =>
    unfold exec execSeqNext at h
    obtain ⟨x, hx, rfl⟩ := State.onTx_eq_next.1 h
    cases hx
    exact .inr (.inl ⟨rfl, _, .seqNext, rfl⟩)
  case tsAdvance fps =>
    unfold exec execTsAdvance at h
    obtain ⟨x, hx, rfl⟩ := State.onTx_eq_next.1 h
    refine .inr (.inl ⟨rfl, _, ?_, rfl⟩)
    split at hx
    · cases hx; exact .badRate
    · cases hx; exact .tsAdvance fps (by assumption)
  case txReset mp c q ts =>
    unfold exec execTxReset at h
    obtain ⟨x, hx, rfl⟩ := State.onTx_eq_next.1 h
    cases hx
    exact .inr (.inr (.inr (.inr ⟨mp, c, q, ts, rfl, rfl⟩)))
  case rtpDec b =>
    unfold exec execRtpDec at h
    exact .inr (.inr (.inl ⟨rfl, hdec h (by simp)⟩))
  case nalhDec b =>
    unfold exec execNalhDec at h
    exact .inr (.inr (.inl ⟨rfl, hdec h (by simp)⟩))
  case fuiDec b =>
    unfold exec execFuiDec at h
    exact .inr (.inr (.inl ⟨rfl, hdec h (by simp)⟩))
  case fuhDec b =>
    unfold exec execFuhDec at h
    exact .inr (.inr (.inl ⟨rfl, hdec h (by simp)⟩))
  case nalh265Dec b =>
    unfold exec execNalh265Dec at h
    exact .inr (.inr (.inl ⟨rfl, hdec h (by simp)⟩))
  case fuh265Dec b =>
    unfold exec execFuh265Dec at h
    exact .inr (.inr (.inl ⟨rfl, hdec h (by simp)⟩))
  all_goals first
    | exact .inl ⟨rfl, hsingle h⟩
    | exact .inl ⟨rfl, hother h⟩
    | exact .inr (.inr (.inl ⟨rfl, henc h⟩))

/-- Running a message answers a next state only by running an instruction that its sender may issue (R153, R171). -/
theorem runFrame_eq_next {who : Issuer} {fr : Frame} {s t : State} :
    runFrame who fr s = .next t ↔ ∃ i, decode fr = .ok i ∧ issuerOf i = who ∧ exec i s = .next t := by
  unfold runFrame
  split
  · rename_i i hi
    by_cases hw : issuerOf i = who <;> simp [hi, hw]
  · rename_i e he
    simp [he]

/-- The only next states of a step: a micro-operation of the packetizer, waiting, the oldest message, or a write of
`MAX_PAYLOAD`. -/
theorem step_cases {s t : State} (h : step s = .next t) :
    (∃ fr rest i, s.micro = fr :: rest ∧ decode fr = .ok i ∧ issuerOf i = .packetizer ∧
      exec i { s with micro := rest } = .next t) ∨
    (s.micro = [] ∧ s.pending = [] ∧ t = s) ∨
    (∃ fr rest i, s.micro = [] ∧ s.pending = .message fr :: rest ∧ decode fr = .ok i ∧ issuerOf i = .host ∧
      exec i { s with pending := rest } = .next t) ∨
    (∃ v rest, s.micro = [] ∧ s.pending = .writeMaxPayload v :: rest ∧
      t = { s with tx := s.tx.setMaxPayload v, pending := rest }) := by
  unfold step at h
  split at h
  · rename_i fr rest hm
    obtain ⟨i, hd, hw, he⟩ := runFrame_eq_next.1 h
    exact .inl ⟨fr, rest, i, hm, hd, hw, he⟩
  · rename_i hm
    split at h
    · rename_i hp; cases h; exact .inr (.inl ⟨hm, hp, rfl⟩)
    · rename_i fr rest hp
      obtain ⟨i, hd, hw, he⟩ := runFrame_eq_next.1 h
      exact .inr (.inr (.inl ⟨fr, rest, i, hm, hp, hd, hw, he⟩))
    · rename_i v rest hp
      cases h
      exact .inr (.inr (.inr ⟨v, rest, hm, hp, rfl⟩))

/-- The only next states of a system: nothing moves where there is no instance, and elsewhere that instance alone takes its
own step (R49, R170). -/
theorem System.stepAt_eq_next {k : Nat} {sys a : System} : System.stepAt k sys = .next a ↔
    (sys[k]? = none ∧ a = sys) ∨ ∃ s s', sys[k]? = some s ∧ step s = .next s' ∧ a = sys.set k s' := by
  unfold System.stepAt
  cases sys[k]? with
  | none => simp [eq_comm]
  | some s =>
    rw [andThen_eq_next]
    constructor
    · rintro ⟨s', hs, h⟩
      cases h
      exact .inr ⟨s, s', rfl, hs, rfl⟩
    · rintro (⟨h, -⟩ | ⟨q, s', hq, hs, rfl⟩)
      · cases h
      · cases hq
        exact ⟨s', hs, rfl⟩

/-- The step after a table word is placed runs the instruction that the word decodes to, whoever issues it. -/
theorem step_withFetchWord {n w : Nat} {i : Instr} (h : decodeTableWord n w = some i) (s : State) :
    step (s.withFetchWord n w) = exec i (if issuerOf i = .packetizer then s else { s with micro := [] }) := by
  have hd : decode (tableFrame n w) = .ok i := by
    unfold decodeTableWord at h
    split at h
    · cases h; assumption
    · cases h
  unfold State.withFetchWord
  simp only [h, Option.map_some, Option.some.injEq]
  cases hw : issuerOf i <;> simp [step, runFrame, hd, hw]

end Sys2Proof.Machine
end

