-- ==== Sys2Proof/Tests/Slice0.lean ====
section
/-! SUPPORT. The model's own tests: the WellFormed smoke tests, words written out from the spec's encodings, the spec's worked vectors
(95_test_vectors.md), and a witness for every statement that has hypotheses. -/

namespace Sys2Proof.Tests

open Sys2Proof.Machine

/-- `H` of 95_test_vectors.md section 2.4. -/
def hdr : ByteString := [0x80, 0x60, 0x00, 0x07, 0x00, 0x00, 0x00, 0x00, 0x00, 0x00, 0x00, 0x01]

/-- The record `H` decodes to, by hand. -/
def hdrRec : RtpHeader := ⟨2, 0, 0, 0, 0, 96, 7, 0, 1⟩

/-- A state whose receiver has capacity `n` and holds the bytes `b` of a unit under construction. -/
def rxState (n : Nat) (b : ByteString) : State :=
  { State.reset with rx := { Rx.reset with maxNalu := n, acc := Memory.writeBytes [] 0 b, accLen := b.length } }

/-- A state whose transmitter has the given configuration and counters. -/
def txState (mp seq : BitVec 16) (ts ssrc : BitVec 32) : State :=
  { State.reset with tx := { Tx.reset with maxPayload := mp, seq := seq, ts := ts, ssrc := ssrc } }

/-- What a receive vector names: statuses, units, `ACC_LEN`, and the bytes of `ACC` below it (empty when one is missing). -/
def rxView (r : Result State) : Option (List Status × List ByteString × Nat × ByteString) :=
  (nextState? r).map (fun s => (s.rx.rxStatus, s.rx.naluOut, s.rx.accLen,
    match s.rx.acc.readBytes 0 s.rx.accLen with | .ok b => b | .error _ => []))

/-- What a transmit vector names: statuses, packets, `SEQ`, `TS`. -/
def txView (r : Result State) : Option (List Status × List ByteString × BitVec 16 × BitVec 32) :=
  (nextState? r).map (fun s => (s.tx.txStatus, s.tx.pktOut, s.tx.seq, s.tx.ts))

/-- What a codec vector names. -/
def codecView (r : Result State) : Option (List CodecResult) := (nextState? r).map State.codecOut

/-! ### WellFormed: each check refuses an ill-formed term -/

theorem test_wf_too_short : Instr.wellFormed (.rxTooShort (hdr ++ [0])) = false := by decide
theorem test_wf_tx_single : Instr.wellFormed (.txSingle 0 3 7 []) = false := by decide
theorem test_wf_tx_fragment : Instr.wellFormed (.txFuStart 0 3 7 []) = false ∧ Instr.wellFormed (.txFuMid 0 3 7 []) = false ∧
    Instr.wellFormed (.txFuEnd 0 3 7 []) = false := by decide
theorem test_wf_ts_advance : Instr.wellFormed (.tsAdvance 0) = false := by decide
theorem test_wf_rx_reset : Instr.wellFormed (.rxReset 4) = false := by decide
theorem test_wf_tx_reset : Instr.wellFormed (.txReset 0 1 0 0) = false := by decide
theorem test_wf_length : Instr.wellFormed (.onPacket (List.replicate (2 ^ 32) 0)) = false := by
  rw [Instr.wellFormed, lengthInDomain, List.length_replicate]; rfl
theorem test_wf_accepts : ([.rxTooShort hdr, .txSingle 0 3 7 [1], .tsAdvance 1, .rxReset 5, .txReset 1 1 0 0, .onPacket [],
    .packetize [] 0] : List Instr).all Instr.wellFormed = true := by decide

/-! ### Decoding, by words written out from the spec's encodings -/

/-- `RX_SINGLE` rows: `payload[0]` is `{F 0, NRI 3, Type t}`, so `60 + t` in hexadecimal (R62, R70). -/
theorem test_decode_single_01 : decode ⟨.pktIn, hdr ++ [0x61, 0xAA]⟩ = .ok (.rxSingleT01 hdrRec 0 3 [0xAA]) ∧
    decode ⟨.pktIn, hdr ++ [0x62, 0xAA]⟩ = .ok (.rxSingleT02 hdrRec 0 3 [0xAA]) ∧
    decode ⟨.pktIn, hdr ++ [0x63, 0xAA]⟩ = .ok (.rxSingleT03 hdrRec 0 3 [0xAA]) ∧
    decode ⟨.pktIn, hdr ++ [0x64, 0xAA]⟩ = .ok (.rxSingleT04 hdrRec 0 3 [0xAA]) ∧
    decode ⟨.pktIn, hdr ++ [0x65, 0xAA]⟩ = .ok (.rxSingleT05 hdrRec 0 3 [0xAA]) ∧
    decode ⟨.pktIn, hdr ++ [0x66, 0xAA]⟩ = .ok (.rxSingleT06 hdrRec 0 3 [0xAA]) ∧
    decode ⟨.pktIn, hdr ++ [0x67, 0xAA]⟩ = .ok (.rxSingleT07 hdrRec 0 3 [0xAA]) ∧
    decode ⟨.pktIn, hdr ++ [0x68, 0xAA]⟩ = .ok (.rxSingleT08 hdrRec 0 3 [0xAA]) ∧
    decode ⟨.pktIn, hdr ++ [0x69, 0xAA]⟩ = .ok (.rxSingleT09 hdrRec 0 3 [0xAA]) ∧
    decode ⟨.pktIn, hdr ++ [0x6A, 0xAA]⟩ = .ok (.rxSingleT10 hdrRec 0 3 [0xAA]) ∧
    decode ⟨.pktIn, hdr ++ [0x6B, 0xAA]⟩ = .ok (.rxSingleT11 hdrRec 0 3 [0xAA]) ∧
    decode ⟨.pktIn, hdr ++ [0x6C, 0xAA]⟩ = .ok (.rxSingleT12 hdrRec 0 3 [0xAA]) := by
  decide

/-- `RX_SINGLE` rows: `payload[0]` is `{F 0, NRI 3, Type t}`, so `60 + t` in hexadecimal (R62, R70). -/
theorem test_decode_single_13 : decode ⟨.pktIn, hdr ++ [0x6D, 0xAA]⟩ = .ok (.rxSingleT13 hdrRec 0 3 [0xAA]) ∧
    decode ⟨.pktIn, hdr ++ [0x6E, 0xAA]⟩ = .ok (.rxSingleT14 hdrRec 0 3 [0xAA]) ∧
    decode ⟨.pktIn, hdr ++ [0x6F, 0xAA]⟩ = .ok (.rxSingleT15 hdrRec 0 3 [0xAA]) ∧
    decode ⟨.pktIn, hdr ++ [0x70, 0xAA]⟩ = .ok (.rxSingleT16 hdrRec 0 3 [0xAA]) ∧
    decode ⟨.pktIn, hdr ++ [0x71, 0xAA]⟩ = .ok (.rxSingleT17 hdrRec 0 3 [0xAA]) ∧
    decode ⟨.pktIn, hdr ++ [0x72, 0xAA]⟩ = .ok (.rxSingleT18 hdrRec 0 3 [0xAA]) ∧
    decode ⟨.pktIn, hdr ++ [0x73, 0xAA]⟩ = .ok (.rxSingleT19 hdrRec 0 3 [0xAA]) ∧
    decode ⟨.pktIn, hdr ++ [0x74, 0xAA]⟩ = .ok (.rxSingleT20 hdrRec 0 3 [0xAA]) ∧
    decode ⟨.pktIn, hdr ++ [0x75, 0xAA]⟩ = .ok (.rxSingleT21 hdrRec 0 3 [0xAA]) ∧
    decode ⟨.pktIn, hdr ++ [0x76, 0xAA]⟩ = .ok (.rxSingleT22 hdrRec 0 3 [0xAA]) ∧
    decode ⟨.pktIn, hdr ++ [0x77, 0xAA]⟩ = .ok (.rxSingleT23 hdrRec 0 3 [0xAA]) := by
  decide

/-- `RX_OTHER` rows, with `F 1, NRI 0` (R70). -/
theorem test_decode_other : decode ⟨.pktIn, hdr ++ [0x80, 0xAA]⟩ = .ok (.rxOtherT00 hdrRec 1 0 [0xAA]) ∧
    decode ⟨.pktIn, hdr ++ [0x98, 0xAA]⟩ = .ok (.rxOtherT24 hdrRec 1 0 [0xAA]) ∧
    decode ⟨.pktIn, hdr ++ [0x99, 0xAA]⟩ = .ok (.rxOtherT25 hdrRec 1 0 [0xAA]) ∧
    decode ⟨.pktIn, hdr ++ [0x9A, 0xAA]⟩ = .ok (.rxOtherT26 hdrRec 1 0 [0xAA]) ∧
    decode ⟨.pktIn, hdr ++ [0x9B, 0xAA]⟩ = .ok (.rxOtherT27 hdrRec 1 0 [0xAA]) ∧
    decode ⟨.pktIn, hdr ++ [0x9D, 0xAA]⟩ = .ok (.rxOtherT29 hdrRec 1 0 [0xAA]) ∧
    decode ⟨.pktIn, hdr ++ [0x9E, 0xAA]⟩ = .ok (.rxOtherT30 hdrRec 1 0 [0xAA]) ∧
    decode ⟨.pktIn, hdr ++ [0x9F, 0xAA]⟩ = .ok (.rxOtherT31 hdrRec 1 0 [0xAA]) := by
  decide

/-- Type 28 by length, `S` and `E` (R70): 13 bytes; `C5` is `S = E = 1`; `25` has `R = 1`; `65` is `E = R = 1`. -/
theorem test_decode_fu : decode ⟨.pktIn, hdr ++ [0x7C]⟩ = .ok (.rxFuTrunc hdrRec 0 3) ∧
    decode ⟨.pktIn, hdr ++ [0x7C, 0xC5, 0x11]⟩ = .ok (.rxFuStart hdrRec 0 3 1 0 5 [0x11]) ∧
    decode ⟨.pktIn, hdr ++ [0x5C, 0x25, 0x11]⟩ = .ok (.rxFuMid hdrRec 0 2 1 5 [0x11]) ∧
    decode ⟨.pktIn, hdr ++ [0x7C, 0x65, 0x22]⟩ = .ok (.rxFuEnd hdrRec 0 3 1 5 [0x22]) ∧
    decode ⟨.pktIn, hdr⟩ = .ok (.rxTooShort hdr) := by decide

/-- The outbound packets of T30 and T33 (R71). -/
theorem test_decode_tx :
    decode ⟨.txSingle, [0x80, 0xE0, 0, 1, 0, 0, 0x0B, 0xB8, 0, 0, 0, 1, 0x61, 0x10]⟩ = .ok (.txSingle 0 3 1 [0x10]) ∧
    decode ⟨.txFragment, [0x80, 0x60, 0, 1, 0, 0, 0x0B, 0xB8, 0, 0, 0, 1, 0x7C, 0x81, 0x10]⟩ = .ok (.txFuStart 0 3 1 [0x10]) ∧
    decode ⟨.txFragment, [0x80, 0x60, 0, 2, 0, 0, 0x0B, 0xB8, 0, 0, 0, 1, 0x7C, 0x01, 0x14]⟩ = .ok (.txFuMid 0 3 1 [0x14]) ∧
    decode ⟨.txFragment, [0x80, 0xE0, 0, 3, 0, 0, 0x0B, 0xB8, 0, 0, 0, 1, 0x7C, 0x41, 0x18]⟩ = .ok (.txFuEnd 0 3 1 [0x18]) := by
  decide

/-- The structures, bytes from T3, T11, T15, T18, T19, T22. -/
theorem test_decode_struct :
    decode ⟨.rtpHeader, [0xB5, 0x7F, 0xFF, 0xFE, 1, 2, 3, 4, 0xDE, 0xAD, 0xBE, 0xEF]⟩ =
      .ok (.structRtpHeader ⟨2, 1, 1, 5, 0, 127, 0xFFFE, 0x01020304, 0xDEADBEEF⟩) ∧
    decode ⟨.nalHeaderH264, [0x28]⟩ = .ok (.structNalHeaderH264 0 1 8) ∧
    decode ⟨.fuIndicatorH264, [0x9C]⟩ = .ok (.structFuIndicatorH264 1 0) ∧
    decode ⟨.fuHeaderH264, [0x57]⟩ = .ok (.structFuHeaderH264 0 1 23) ∧
    decode ⟨.nalHeaderH265, [0x03, 0x0A]⟩ = .ok (.structNalHeaderH265 0 1 33 2) ∧
    decode ⟨.fuHeaderH265, [0xA0]⟩ = .ok (.structFuHeaderH265 1 0 32) := by decide

/-- The operations by their numbers (R72), the codec's. -/
theorem test_decode_codec_ops :
    decode ⟨.op, [0, 0x80]⟩ = .ok (.rtpDec [0x80]) ∧
    decode ⟨.op, [1, 2, 1, 1, 5, 0, 127, 0xFF, 0xFE, 1, 2, 3, 4, 0xDE, 0xAD, 0xBE, 0xEF]⟩ =
      .ok (.rtpEnc ⟨2, 1, 1, 5, 0, 127, 0xFFFE, 0x01020304, 0xDEADBEEF⟩) ∧
    decode ⟨.op, [2, 0x67]⟩ = .ok (.nalhDec [0x67]) ∧ decode ⟨.op, [3, 0, 3, 7]⟩ = .ok (.nalhEnc 0 3 7) ∧
    decode ⟨.op, [4, 0x7C]⟩ = .ok (.fuiDec [0x7C]) ∧ decode ⟨.op, [5, 1, 2]⟩ = .ok (.fuiEnc 1 2) ∧
    decode ⟨.op, [6, 0x85]⟩ = .ok (.fuhDec [0x85]) ∧ decode ⟨.op, [7, 0, 1, 23]⟩ = .ok (.fuhEnc 0 1 23) ∧
    decode ⟨.op, [8, 0x62, 1]⟩ = .ok (.nalh265Dec [0x62, 1]) ∧
    decode ⟨.op, [9, 0, 1, 33, 2]⟩ = .ok (.nalh265Enc 0 1 33 2) ∧
    decode ⟨.op, [10, 0x93]⟩ = .ok (.fuh265Dec [0x93]) ∧ decode ⟨.op, [11, 1, 0, 19]⟩ = .ok (.fuh265Enc 1 0 19) := by decide

/-- The operations by their numbers (R72), the instances'. -/
theorem test_decode_instance_ops :
    decode ⟨.op, [12, 0x80, 0x60]⟩ = .ok (.onPacket [0x80, 0x60]) ∧
    decode ⟨.op, [13, 0, 0, 0, 30, 0, 0, 0, 1, 0x67, 0x42]⟩ = .ok (.packetize [0, 0, 0, 1, 0x67, 0x42] 30) ∧
    decode ⟨.op, [14]⟩ = .ok .seqNext ∧ decode ⟨.op, [15, 0, 1, 0x5F, 0x91]⟩ = .ok (.tsAdvance 90001) ∧
    decode ⟨.op, [16, 1, 0, 0]⟩ = .ok (.rxReset 65536) ∧
    decode ⟨.op, [17, 0x04, 0xB0, 0x11, 0x22, 0x33, 0x44, 0xFF, 0xF0, 0, 1, 0, 0]⟩ =
      .ok (.txReset 1200 0x11223344 0xFFF0 0x00010000) := by decide

/-- What spells no operation is rejected by name. -/
theorem test_decode_rejects :
    decode ⟨.op, [18]⟩ = .error .unknownOperation ∧ decode ⟨.op, []⟩ = .error .truncatedFrame ∧
    decode ⟨.op, [14, 0]⟩ = .error .trailingBytes ∧ decode ⟨.op, [3, 2, 3, 7]⟩ = .error .fieldOverWide ∧
    decode ⟨.op, [15, 0, 0, 0]⟩ = .error .truncatedFrame ∧
    decode ⟨.fuIndicatorH264, [0x67]⟩ = .error .patternMismatch ∧ decode ⟨.fuHeaderH264, [0xA5]⟩ = .error .patternMismatch ∧
    decode ⟨.nalHeaderH265, [0x62]⟩ = .error .truncatedFrame ∧
    decode ⟨.txSingle, [0x80, 0x60, 0, 1, 0, 0, 0, 0, 0, 0, 0, 1, 0x61, 0x10]⟩ = .error .patternMismatch ∧
    decode ⟨.txFragment, [0x80, 0xE0, 0, 1, 0, 0, 0, 0, 0, 0, 0, 1, 0x7C, 0x81, 0x10]⟩ = .error .patternMismatch := by decide

/-- Table words (spec/opcode_table.json's numbering): an operation, a class row, a packet row, and the first step after reset. -/
theorem test_table_words :
    decodeTableWord 8 0x0E = some .seqNext ∧
    decodeTableWord 16 0x0700 = some (.rxSingleT07 ⟨0, 0, 0, 0, 0, 0, 0, 0, 0⟩ 0 0 [0]) ∧
    decodeTableWord 112 0x8060_0000000000_0000000000_7C41 = none ∧
    decodeTableWord 112 0x80E0_0000000000_0000000000_7C41 = some (.txFuEnd 0 3 1 []) ∧
    decodeTableWord 112 0x417C_0000000000_0000000000_E080 = some (.txFuEnd 0 3 1 []) ∧
    (nextState? (step (State.reset.withFetchWord 8 0x0E))).map (fun s => s.tx.seq) = some 1 ∧
    (nextState? (step (State.reset.withFetchWord 8 0x12))).map (fun s => s.codecEnded) = some [.ok] := by decide

/-! ### The codec (T1 to T23) -/

/-- T3 and T6. -/
theorem test_rtp_dec : codecView (exec (.rtpDec [0xB5, 0x7F, 0xFF, 0xFE, 1, 2, 3, 4, 0xDE, 0xAD, 0xBE, 0xEF, 0x99, 0x98]) State.reset) =
      some [.rtp ⟨2, 1, 1, 5, 0, 127, 0xFFFE, 0x01020304, 0xDEADBEEF⟩] ∧
    codecView (exec (.rtpDec [0x80, 0xE0, 0, 1, 0, 0, 0x0B, 0xB8, 0x11, 0x22, 0x33]) State.reset) =
      some [.raised .truncatedInput] := by decide
/-- T8 and T10. -/
theorem test_rtp_enc : codecView (exec (.rtpEnc ⟨2, 0, 0, 0, 1, 96, 1, 3000, 0x11223344⟩) State.reset) =
      some [.bytes [0x80, 0xE0, 0x00, 0x01, 0x00, 0x00, 0x0B, 0xB8, 0x11, 0x22, 0x33, 0x44]] ∧
    codecView (exec (.structRtpHeader ⟨2, 1, 1, 5, 0, 127, 0xFFFE, 0x01020304, 0xDEADBEEF⟩) State.reset) =
      some [.bytes [0xB5, 0x7F, 0xFF, 0xFE, 1, 2, 3, 4, 0xDE, 0xAD, 0xBE, 0xEF]] := by decide
/-- T11 to T13. -/
theorem test_nalh : codecView (exec (.nalhDec [0x41]) State.reset) = some [.nal 0 2 1] ∧
    codecView (exec (.nalhDec []) State.reset) = some [.raised .truncatedInput] ∧
    codecView (exec (.nalhEnc 0 1 8) State.reset) = some [.bytes [0x28]] ∧
    codecView (exec (.structNalHeaderH264 1 3 31) State.reset) = some [.bytes [0xFF]] := by decide
/-- T14 and T15. -/
theorem test_fui : codecView (exec (.fuiDec [0x67]) State.reset) = some [.nal 0 3 7] ∧
    codecView (exec (.fuiDec [0xFC]) State.reset) = some [.nal 1 3 28] ∧
    codecView (exec (.fuiEnc 0 1) State.reset) = some [.bytes [0x3C]] ∧
    codecView (exec (.structFuIndicatorH264 1 0) State.reset) = some [.bytes [0x9C]] := by decide
/-- T16 to T18. -/
theorem test_fuh : codecView (exec (.fuhDec [0x25]) State.reset) = some [.fuHeader 0 0 1 5] ∧
    codecView (exec (.fuhDec [0x81]) State.reset) = some [.fuHeader 1 0 0 1] ∧
    codecView (exec (.fuhEnc 0 1 23) State.reset) = some [.bytes [0x57]] ∧
    codecView (exec (.structFuHeaderH264 1 1 31) State.reset) = some [.bytes [0xDF]] := by decide
/-- T19 to T21: the layer id crosses the byte boundary. -/
theorem test_nalh265 : codecView (exec (.nalh265Dec [0x01, 0x00]) State.reset) = some [.nal265 0 0 32 0] ∧
    codecView (exec (.nalh265Dec [0x81, 0x07]) State.reset) = some [.nal265 1 0 32 7] ∧
    codecView (exec (.nalh265Dec [0x62]) State.reset) = some [.raised .truncatedInput] ∧
    codecView (exec (.nalh265Enc 0 49 63 7) State.reset) = some [.bytes [0x63, 0xFF]] ∧
    codecView (exec (.structNalHeaderH265 0 0 31 0) State.reset) = some [.bytes [0x00, 0xF8]] := by decide
/-- T22 and T23. -/
theorem test_fuh265 : codecView (exec (.fuh265Dec [0x60]) State.reset) = some [.fu265 0 1 32] ∧
    codecView (exec (.fuh265Dec []) State.reset) = some [.raised .truncatedInput] ∧
    codecView (exec (.fuh265Enc 1 0 32) State.reset) = some [.bytes [0xA0]] ∧
    codecView (exec (.structFuHeaderH265 0 0 19) State.reset) = some [.bytes [0x13]] := by decide

/-! ### The sequence-counter engine (T25, T26, T28, T29, T29b) -/

theorem test_seq_next : txView (exec .seqNext (txState 4 0x7FFF 0 1)) = some ([], [], 0x8000, 0) ∧
    txView (exec .seqNext (txState 4 0xFFFF 0 1)) = some ([], [], 0, 0) := by
  and_intros <;> decide
theorem test_ts_advance : txView (exec (.tsAdvance 25) (txState 4 0 0x00010000 1)) = some ([], [], 0, 0x00010E10) ∧
    txView (exec (.tsAdvance 25) (txState 4 0 0xFFFFFE10 1)) = some ([], [], 0, 0x00000C20) ∧
    txView (exec (.tsAdvance 90001) (txState 4 0 0xFFFFFFFF 1)) = some ([], [], 0, 0xFFFFFFFF) := by
  and_intros <;> decide

/-! ### The packetizer (T30 to T41, from `max_payload=4 ssrc=1 seq=0 ts=0`) -/

/-- T31: one byte more than `MAX_PAYLOAD`. -/
theorem test_packetize_two : txView (exec (.packetize [0, 0, 0, 1, 0x61, 0x10, 0x11, 0x12, 0x13, 0x14] 30) (txState 4 0 0 1)) =
    some ([.ok], [[0x80, 0x60, 0, 1, 0, 0, 0x0B, 0xB8, 0, 0, 0, 1, 0x7C, 0x81, 0x10, 0x11, 0x12, 0x13],
      [0x80, 0xE0, 0, 2, 0, 0, 0x0B, 0xB8, 0, 0, 0, 1, 0x7C, 0x41, 0x14]], 2, 3000) := by decide
/-- T30, T39, T36, T37, T37a: a whole unit, a lost prefix, and the rejections. -/
theorem test_packetize_one :
    txView (exec (.packetize [0, 0, 0, 1, 0x61, 0x10, 0x11, 0x12, 0x13] 30) (txState 4 0 0 1)) = some ([.ok],
      [[0x80, 0xE0, 0, 1, 0, 0, 0x0B, 0xB8, 0, 0, 0, 1, 0x61, 0x10, 0x11, 0x12, 0x13]], 1, 3000) ∧
    txView (exec (.packetize [0xDE, 0xAD, 0xBE, 0xEF, 0x67, 0x42] 30) (txState 4 0 0 1)) = some ([.ok],
      [[0x80, 0xE0, 0, 1, 0, 0, 0x0B, 0xB8, 0, 0, 0, 1, 0x67, 0x42]], 1, 3000) ∧
    txView (exec (.packetize [0, 0, 0, 1, 0x67] 0) (txState 4 0 0 1)) = some ([.payloadTooSmall], [], 0, 0) ∧
    txView (exec (.packetize [0, 0, 0, 1, 0x67, 0x42] 0) (txState 4 0 0 1)) = some ([.badFrameRate], [], 0, 0) := by
  and_intros <;> decide
/-- The packets of T33 and T41 as instructions of their own. -/
theorem test_packet_kinds :
    txView (exec (.txSingle 0 3 1 [0x10]) (txState 4 0 3000 1)) =
      some ([], [[0x80, 0xE0, 0, 1, 0, 0, 0x0B, 0xB8, 0, 0, 0, 1, 0x61, 0x10]], 1, 3000) ∧
    txView (exec (.txFuStart 1 3 5 [1, 2, 3, 4]) (txState 4 0 0 1)) =
      some ([], [[0x80, 0x60, 0, 1, 0, 0, 0, 0, 0, 0, 0, 1, 0xFC, 0x85, 1, 2, 3, 4]], 1, 0) ∧
    txView (exec (.txFuMid 0 3 1 [0x14, 0x15, 0x16, 0x17]) (txState 4 1 3000 1)) =
      some ([], [[0x80, 0x60, 0, 2, 0, 0, 0x0B, 0xB8, 0, 0, 0, 1, 0x7C, 0x01, 0x14, 0x15, 0x16, 0x17]], 2, 3000) ∧
    txView (exec (.txFuEnd 0 3 1 [0x18]) (txState 4 2 3000 1)) =
      some ([], [[0x80, 0xE0, 0, 3, 0, 0, 0x0B, 0xB8, 0, 0, 0, 1, 0x7C, 0x41, 0x18]], 3, 3000) := by
  and_intros <;> decide

/-! ### The depacketizer (T50 to T73) -/

/-- T50, T57, T58, T60. -/
theorem test_rx_rejected :
    rxView (exec (.onPacket hdr) (rxState 64 [])) = some ([.packetTooShort], [], 0, []) ∧
    rxView (exec (.onPacket (hdr ++ [0x60, 1])) (rxState 64 [])) = some ([.unclassifiedNaluType], [], 0, []) ∧
    rxView (exec (.onPacket (hdr ++ [0x78, 0, 1])) (rxState 64 [])) = some ([.unclassifiedNaluType], [], 0, []) ∧
    rxView (exec (.onPacket (hdr ++ [0x7C])) (rxState 64 [])) = some ([.truncatedInput], [], 0, []) := by
  and_intros <;> decide
/-- T52, T55, T68, T69. -/
theorem test_rx_single :
    rxView (exec (.onPacket (hdr ++ [0x67])) (rxState 64 [])) = some ([.ok], [[0, 0, 0, 1, 0x67]], 0, []) ∧
    rxView (exec (.onPacket (hdr ++ [0xE7, 1])) (rxState 64 [])) = some ([.ok], [[0, 0, 0, 1, 0xE7, 1]], 0, []) ∧
    rxView (exec (.onPacket (hdr ++ [0x65, 1, 2, 3])) (rxState 8 [])) = some ([.ok], [[0, 0, 0, 1, 0x65, 1, 2, 3]], 0, []) ∧
    rxView (exec (.onPacket (hdr ++ [0x65, 1, 2, 3, 4])) (rxState 8 [])) = some ([.reassemblyOverflow], [], 0, []) := by
  and_intros <;> decide
/-- T61, T63, T70, T71. -/
theorem test_rx_fu_start :
    rxView (exec (.onPacket (hdr ++ [0x7C, 0x85])) (rxState 64 [])) = some ([.ok], [], 5, [0, 0, 0, 1, 0x65]) ∧
    rxView (exec (.onPacket (hdr ++ [0x7C, 0xC5, 0x11])) (rxState 64 [])) = some ([.ok], [], 6, [0, 0, 0, 1, 0x65, 0x11]) ∧
    rxView (exec (.onPacket (hdr ++ [0x7C, 0x85, 1, 2, 3, 4])) (rxState 8 [])) = some ([.reassemblyOverflow], [], 0, []) ∧
    rxView (exec (.onPacket (hdr ++ [0x7C, 0x85, 1, 2, 3])) (rxState 8 [])) =
      some ([.ok], [], 8, [0, 0, 0, 1, 0x65, 1, 2, 3]) := by
  and_intros <;> decide
/-- R117's example, T65, T72. -/
theorem test_rx_fu_mid :
    rxView (exec (.onPacket (hdr ++ [0x7C, 0x05, 0xA4])) (rxState 64 [0, 0, 0, 1, 0x65, 0xA0])) =
      some ([.ok], [], 7, [0, 0, 0, 1, 0x65, 0xA0, 0xA4]) ∧
    rxView (exec (.onPacket (hdr ++ [0x7C, 0x05, 0xA4])) (rxState 64 [])) = some ([.ok], [], 0, []) ∧
    rxView (exec (.onPacket (hdr ++ [0x7C, 0x05, 4])) (rxState 8 [0, 0, 0, 1, 0x65, 1, 2, 3])) =
      some ([.reassemblyOverflow], [], 0, []) := by
  and_intros <;> decide
/-- T62, T64, T66, and T67's second packet. -/
theorem test_rx_fu_end :
    rxView (exec (.onPacket (hdr ++ [0x7C, 0x45])) (rxState 64 [0, 0, 0, 1, 0x65])) = some ([.ok], [[0, 0, 0, 1, 0x65]], 0, []) ∧
    rxView (exec (.onPacket (hdr ++ [0x7C, 0x65, 0x22])) (rxState 64 [0, 0, 0, 1, 0x65, 0x11])) =
      some ([.ok], [[0, 0, 0, 1, 0x65, 0x11, 0x22]], 0, []) ∧
    rxView (exec (.onPacket (hdr ++ [0x7C, 0x45, 0xA8])) (rxState 64 [])) = some ([.ok], [], 0, []) ∧
    rxView (exec (.onPacket (hdr ++ [0x7C, 0x41, 0xC1])) (rxState 64 [0, 0, 0, 1, 0x41, 0xC0])) =
      some ([.ok], [[0, 0, 0, 1, 0x41, 0xC0, 0xC1]], 0, []) := by
  and_intros <;> decide
/-- T56: the diagnostic of a packet with version 0 and payload type 127. -/
theorem test_rx_diag :
    (nextState? (exec (.onPacket [0, 0x7F, 0, 0, 0, 0, 0, 0, 0, 0, 0, 0, 0x65, 0x88]) (rxState 64 []))).map (fun s => s.rx.rxDiag) =
      some [⟨0, 0, 0, 0, 0, 127, 0, 0, 0⟩] := by decide
/-- R180's and R181's examples: a reset in the middle of a reassembly discards it; the counters take the operands. -/
theorem test_resets :
    rxView (exec (.rxReset 65536) (rxState 64 [0, 0, 0, 1, 0x65])) = some ([], [], 0, []) ∧
    txView (exec (.txReset 1200 0x11223344 0 0) (txState 4 7 9 1)) = some ([], [], 0, 0) := by
  and_intros <;> decide
/-- One status for each operation (R31, R160): a reset, a micro-operation and a `PACKETIZE` of three packets each give one, and
only `PACKETIZE` puts it on `tx_status` (R30). -/
theorem test_one_status :
    (nextState? (exec (.rxReset 64) State.reset)).map (fun s => (s.rx.ended, s.rx.rxStatus)) = some ([.ok], []) ∧
    (nextState? (exec (.txReset 4 1 0 0) State.reset)).map (fun s => (s.tx.ended, s.tx.txStatus)) = some ([.ok], []) ∧
    (nextState? (exec .seqNext State.reset)).map (fun s => (s.tx.ended, s.tx.txStatus)) = some ([.ok], []) ∧
    (nextState? (exec (.packetize [0, 0, 0, 1, 0x61, 1, 2, 3] 30) (txState 1 0 0 1))).map
      (fun s => (s.tx.ended, s.tx.txStatus, s.tx.pktOut.length)) = some ([.ok], [.ok], 3) := by
  and_intros <;> decide
/-- The codes of the statuses (R160, D22). -/
theorem test_status_codes : [Status.ok, .truncatedInput, .packetTooShort, .payloadTooSmall, .unclassifiedNaluType,
    .reassemblyOverflow, .badFrameRate].map Status.code = [0, 1, 2, 3, 4, 5, 6] := by decide
/-- R118's example: a run of the three fragments of R116 to R118 gives the 16-byte unit. -/
theorem test_reassembly : rxView (feed [hdr ++ [0x7C, 0x85, 0xA0, 0xA1, 0xA2, 0xA3], hdr ++ [0x7C, 0x05, 0xA4, 0xA5, 0xA6, 0xA7],
    hdr ++ [0x7C, 0x45, 0xA8, 0xA9, 0xAA]] (rxState 64 [])) = some ([.ok, .ok, .ok], [[0, 0, 0, 1, 0x65, 0xA0, 0xA1, 0xA2, 0xA3,
      0xA4, 0xA5, 0xA6, 0xA7, 0xA8, 0xA9, 0xAA]], 0, []) := by decide

/-! ### Witnesses: concrete states and operands that meet the hypotheses of each statement, clause by clause -/

theorem witness_DecodeInvertsEncode : ([.rxTooShort hdr, .rxSingleT23 hdrRec 1 0 [], .rxFuTrunc hdrRec 0 0, .rxFuStart hdrRec 0 3 1 1 31 [],
    .txSingle 0 3 1 [0], .txFuEnd 1 3 31 [0], .structRtpHeader hdrRec, .rtpDec [], .packetize [] 0, .tsAdvance 1, .rxReset 5,
    .txReset 1 0 0 0] : List Instr).all Instr.wellFormed = true := by decide

theorem witness_ClassRowsSelectTheInstruction :
    14 ≤ (hdr ++ [0x77, 0xFF]).length ∧ (⟨0x1700, 0x1f00, 23⟩ : ClassRow) ∈ classRows ∧
    classWord (hdr ++ [0x77, 0xFF]) &&& 0x1f00 = 0x1700 ∧ (classify (hdr ++ [0x77, 0xFF])).row = 23 ∧
    (hdr ++ [0x7C]).length = 13 ∧ (classify (hdr ++ [0x7C])).row = 24 ∧ hdr.length < 13 ∧ (classify hdr).row = 0 := by decide

/-- Each clause: a request of the host that it may issue, one it may not, one that spells nothing; the same three of the
packetizer; and nothing at all. -/
theorem witness_StepRunsTheDecodedInstruction :
    (State.reset.micro = [] ∧ State.reset.pending = []) ∧
    ({ State.reset with pending := [.message ⟨.op, [2, 0x67]⟩] } : State).pending = .message ⟨.op, [2, 0x67]⟩ :: [] ∧
    (decode ⟨.op, [2, 0x67]⟩ = .ok (.nalhDec [0x67]) ∧ issuerOf (.nalhDec [0x67]) = .host) ∧
    (decode ⟨.op, [14]⟩ = .ok .seqNext ∧ issuerOf .seqNext = .packetizer) ∧
    decode ⟨.op, [18]⟩ = .error .unknownOperation ∧
    ({ State.reset with micro := [⟨.op, [14]⟩] } : State).micro = ⟨.op, [14]⟩ :: [] := by decide

theorem witness_RtpDecReadsTwelveBytes : (hdr.take 11).length < 12 ∧ 12 ≤ hdr.length := by decide

theorem witness_Nalh265DecReadsTwoBytes : ([0x62] : ByteString).length < 2 := by decide

theorem witness_CodecRoundTrips : 12 ≤ hdr.length ∧ nalType 0x7C = 28 ∧ nalType 0x67 ≠ 28 ∧ fuR 0x85 = 0 ∧ fuR 0x25 ≠ 0 := by decide

theorem witness_TooShortPacketRejected : hdr.length < 13 ∧ ([] : ByteString).length < 13 := by decide

/-- Types 1 and 23; a unit of exactly `MAX_NALU` bytes and one of one byte more, for the packet and for the row. -/
theorem witness_SinglePacketEmitsItsUnit :
    (13 ≤ (hdr ++ [0x61]).length ∧ 1 ≤ (byteAt (hdr ++ [0x61]) 12).toNat % 32 ∧ (byteAt (hdr ++ [0x61]) 12).toNat % 32 ≤ 23 ∧
      (hdr ++ [0x61]).length - 8 ≤ (rxState 5 []).rx.maxNalu) ∧
    (1 ≤ (byteAt (hdr ++ [0x77]) 12).toNat % 32 ∧ (byteAt (hdr ++ [0x77]) 12).toNat % 32 ≤ 23 ∧
      (rxState 5 []).rx.maxNalu < (hdr ++ [0x77, 0]).length - 8) ∧
    (1, Instr.rxSingleT01 hdrRec 0 0 [1]) ∈ singleRows hdrRec 0 0 [1] ∧
    5 + ([1] : ByteString).length ≤ (rxState 6 []).rx.maxNalu ∧ (rxState 5 []).rx.maxNalu < 5 + ([1] : ByteString).length := by
  decide

theorem witness_TruncatedFragmentRejected : (hdr ++ [0x7C]).length = 13 ∧ (byteAt (hdr ++ [0x7C]) 12).toNat % 32 = 28 := by decide

/-- FU headers 128 and 255; a body that just fits and one that does not. -/
theorem witness_FragmentStartBeginsAUnit :
    (14 ≤ (hdr ++ [0x7C, 0x80]).length ∧ (byteAt (hdr ++ [0x7C, 0x80]) 12).toNat % 32 = 28 ∧
      128 ≤ (byteAt (hdr ++ [0x7C, 0x80]) 13).toNat ∧ 5 + ((hdr ++ [0x7C, 0x80]).length - 14) ≤ (rxState 5 []).rx.maxNalu) ∧
    (128 ≤ (byteAt (hdr ++ [0x1C, 0xFF, 1]) 13).toNat ∧
      (rxState 5 []).rx.maxNalu < 5 + ((hdr ++ [0x1C, 0xFF, 1]).length - 14)) := by decide

/-- FU headers 0 and 63; an empty accumulator, a body that just fits, and one that does not. -/
theorem witness_FragmentMiddleAppends :
    (14 ≤ (hdr ++ [0x7C, 0x00]).length ∧ (byteAt (hdr ++ [0x7C, 0x00]) 12).toNat % 32 = 28 ∧
      (byteAt (hdr ++ [0x7C, 0x00]) 13).toNat < 64 ∧ hdrRec = rtpUnpack (hdr ++ [0x7C, 0x00]) ∧ (rxState 6 []).rx.accLen = 0) ∧
    ((byteAt (hdr ++ [0x7C, 0x3F, 1]) 13).toNat < 64 ∧ (rxState 6 [0, 0, 0, 1, 0x65]).rx.accLen ≠ 0 ∧
      (rxState 6 [0, 0, 0, 1, 0x65]).rx.accLen + ((hdr ++ [0x7C, 0x3F, 1]).length - 14) ≤ 6 ∧
      5 < (rxState 5 [0, 0, 0, 1, 0x65]).rx.accLen + ((hdr ++ [0x7C, 0x3F, 1]).length - 14)) := by decide

/-- FU headers 64 and 127; an empty accumulator, a body that just fits, and one that does not. -/
theorem witness_FragmentEndEmitsTheUnit :
    (14 ≤ (hdr ++ [0x7C, 0x40]).length ∧ (byteAt (hdr ++ [0x7C, 0x40]) 12).toNat % 32 = 28 ∧
      64 ≤ (byteAt (hdr ++ [0x7C, 0x40]) 13).toNat ∧ (byteAt (hdr ++ [0x7C, 0x40]) 13).toNat < 128 ∧
      hdrRec = rtpUnpack (hdr ++ [0x7C, 0x40]) ∧ (rxState 6 []).rx.accLen = 0) ∧
    (rxState 6 []).rx.acc.readBytes 0 0 = .ok [] ∧
    (rxState 6 [0, 0, 0, 1, 0x65]).rx.acc.readBytes 0 5 = .ok [0, 0, 0, 1, 0x65] ∧
    ((byteAt (hdr ++ [0x7C, 0x7F, 1]) 13).toNat < 128 ∧ (rxState 6 [0, 0, 0, 1, 0x65]).rx.accLen ≠ 0 ∧
      (rxState 6 [0, 0, 0, 1, 0x65]).rx.accLen + ((hdr ++ [0x7C, 0x7F, 1]).length - 14) ≤ 6 ∧
      5 < (rxState 5 [0, 0, 0, 1, 0x65]).rx.accLen + ((hdr ++ [0x7C, 0x7F, 1]).length - 14)) :=
  ⟨by decide, rfl, rfl, by decide⟩

theorem witness_UnwrittenAccumulatorByteFaults :
    let s : State := { rxState 64 [0] with rx := { (rxState 64 [0]).rx with accLen := 5 } }
    s.rx.accLen + ([1] : ByteString).length ≤ s.rx.maxNalu ∧ 1 < s.rx.accLen ∧ s.rx.acc.read 1 = none ∧
      (∀ b < 1, (s.rx.acc.read b).isSome) := by decide

theorem witness_OtherTypesIgnored : 13 ≤ (hdr ++ [0x78]).length ∧
    (∀ t ∈ [0, 24, 25, 26, 27, 29, 30, 31], (byteAt (hdr ++ [BitVec.ofNat 8 t]) 12).toNat % 32 ∈ [0, 24, 25, 26, 27, 29, 30, 31]) ∧
    (31, Instr.rxOtherT31 hdrRec 0 0 []) ∈ otherRows hdrRec 0 0 [] := by decide

/-- T72 and T73. -/
theorem witness_OverflowDropsTheRestOfTheUnit :
    (∃ t, exec (.onPacket (hdr ++ [0x7C, 0x05, 4])) (rxState 8 [0, 0, 0, 1, 0x65, 1, 2, 3]) = .next t ∧
      t.rx.rxStatus = [] ++ [.reassemblyOverflow]) ∧
    (∀ q ∈ [hdr ++ [0x7C, 0x45, 5], hdr ++ [0x7C, 0x7F]],
      14 ≤ q.length ∧ (byteAt q 12).toNat % 32 = 28 ∧ (byteAt q 13).toNat < 128) :=
  ⟨⟨_, rfl, rfl⟩, by decide⟩

/-- Each clause: a class that answers a next state, and an address just outside what it stores. -/
theorem witness_AccumulatorFrame :
    (∃ t, exec (.rxSingleT05 hdrRec 0 3 [1]) (rxState 6 []) = .next t ∧ ¬ (5 + 1 ≤ 6 ∧ 6 < 5 + 1)) ∧
    (∃ t, exec (.rxFuStart hdrRec 0 3 0 0 5 [1]) (rxState 6 []) = .next t ∧ ¬ (5 + 1 ≤ 6 ∧ 6 < 5 + 1)) ∧
    (∃ t, exec (.rxFuMid hdrRec 0 3 0 5 [1]) (rxState 6 [0, 0, 0, 1, 0x65]) = .next t ∧ ¬ (5 ≠ 0 ∧ 5 + 1 ≤ 6 ∧ 5 ≤ 4 ∧ 4 < 5 + 1)) ∧
    (∃ t, exec (.rxFuEnd hdrRec 0 3 0 5 [1]) (rxState 6 [0, 0, 0, 1, 0x65]) = .next t) ∧
    (∃ t, exec (.rxFuTrunc hdrRec 0 3) (rxState 6 []) = .next t) ∧ (∃ t, exec (.rxTooShort []) (rxState 6 []) = .next t) ∧
    (∃ t, exec (.rxOtherT24 hdrRec 0 3 [1]) (rxState 6 []) = .next t) :=
  ⟨⟨_, rfl, by decide⟩, ⟨_, rfl, by decide⟩, ⟨_, rfl, by decide⟩, ⟨_, rfl⟩, ⟨_, rfl⟩, ⟨_, rfl⟩, ⟨_, rfl⟩⟩

/-- A start fragment from `IDLE`, as the row and as `ON_PACKET`; from `ASSEMBLING` an end fragment, a single packet, an overflow in
each of the four classes, and a reset. -/
theorem witness_PhaseMovesOnlyAsTheTableSays :
    (∃ t, exec (.rxFuStart hdrRec 0 3 0 0 5 []) (rxState 64 []) = .next t ∧ (rxState 64 []).rx.phase = .idle ∧ t.rx.phase = .assembling) ∧
    (∃ t, exec (.onPacket (hdr ++ [0x7C, 0x85])) (rxState 64 []) = .next t ∧ t.rx.phase = .assembling) ∧
    packetClass (.onPacket (hdr ++ [0x7C, 0x85])) = .rxFuStart hdrRec 0 3 0 0 5 [] ∧
    (rxState 5 [0, 0, 0, 1, 0x65]).rx.phase = .assembling ∧
    (∃ t, exec (.rxFuEnd hdrRec 0 3 0 5 []) (rxState 5 [0, 0, 0, 1, 0x65]) = .next t ∧ t.rx.phase = .idle ∧ t.rx.rxStatus = [.ok]) ∧
    (∃ t, exec (.rxSingleT07 hdrRec 0 3 []) (rxState 5 [0, 0, 0, 1, 0x65]) = .next t ∧ t.rx.phase = .idle ∧ t.rx.rxStatus = [.ok]) ∧
    (∀ i ∈ [Instr.rxSingleT07 hdrRec 0 3 [1], .rxFuStart hdrRec 0 3 0 0 5 [1], .rxFuMid hdrRec 0 3 0 5 [1], .rxFuEnd hdrRec 0 3 0 5 [1]],
      (nextState? (exec i (rxState 5 [0, 0, 0, 1, 0x65]))).map (fun t => (t.rx.phase, t.rx.rxStatus)) =
        some (.idle, [.reassemblyOverflow])) ∧
    (∃ t, exec (.rxReset 64) (rxState 64 [0, 0, 0, 1, 0x65]) = .next t ∧ t.rx.phase = .idle) :=
  ⟨⟨_, rfl, rfl, rfl⟩, ⟨_, rfl, rfl⟩, rfl, rfl, ⟨_, rfl, rfl, rfl⟩, ⟨_, rfl, rfl, rfl⟩, by decide, ⟨_, rfl, rfl⟩⟩

theorem witness_OnPacketOutputs : (∃ t, exec (.onPacket (hdr ++ [0x67])) (rxState 64 []) = .next t ∧ t.rx.naluOut.length = 1) ∧
    (∃ t, exec (.onPacket (hdr ++ [0x7C])) (rxState 64 [0, 0, 0, 1, 0x65]) = .next t ∧ t.rx.rxStatus = [.truncatedInput]) :=
  ⟨⟨_, rfl, rfl⟩, ⟨_, rfl, rfl⟩⟩

theorem witness_ShortUnitRejected : (txState 1 0 0 0).tx.maxPayload ≠ 0 ∧ ([0, 0, 0, 1, 0x67] : ByteString).length ≤ 5 := by decide

theorem witness_ZeroFrameRateRejected : (txState 1 0 0 0).tx.maxPayload ≠ 0 ∧ 6 ≤ ([0, 0, 0, 1, 0x67, 0x42] : ByteString).length := by
  decide

theorem witness_ZeroMaxPayloadRefused : (txState 0 0 0 0).tx.maxPayload = 0 := by decide

/-- `P = MAX_PAYLOAD`. -/
theorem witness_SmallUnitSentWhole : (txState 1 0 0 0).tx.maxPayload ≠ 0 ∧ 6 ≤ ([0, 0, 0, 1, 0x67, 1] : ByteString).length ∧
    (1 : BitVec 32) ≠ 0 ∧ ([0, 0, 0, 1, 0x67, 1] : ByteString).length - 5 ≤ (txState 1 0 0 0).tx.maxPayload.toNat := by decide

/-- `P = MAX_PAYLOAD + 1`. -/
theorem witness_LargeUnitFragmented : (txState 1 0 0 0).tx.maxPayload ≠ 0 ∧ 6 ≤ ([0, 0, 0, 1, 0x67, 1, 2] : ByteString).length ∧
    (1 : BitVec 32) ≠ 0 ∧ (txState 1 0 0 0).tx.maxPayload.toNat < ([0, 0, 0, 1, 0x67, 1, 2] : ByteString).length - 5 := by decide

theorem witness_PacketCountsAndLengths : (txState 1 0 0 0).tx.maxPayload ≠ 0 ∧ (1 : BitVec 32) ≠ 0 ∧
    ([0, 0, 0, 1, 0x67, 1] : ByteString).length - 5 ≤ (txState 1 0 0 0).tx.maxPayload.toNat ∧
    (txState 1 0 0 0).tx.maxPayload.toNat < ([0, 0, 0, 1, 0x67, 1, 2] : ByteString).length - 5 := by decide

theorem witness_MarkerOnTheLastPacketOnly : (txState 1 0xFFFF 0 0).tx.maxPayload ≠ 0 ∧
    ∃ t ps, exec (.packetize [0, 0, 0, 1, 0x67, 1, 2] 30) (txState 1 0xFFFF 0 0) = .next t ∧
      t.tx.pktOut = (txState 1 0xFFFF 0 0).tx.pktOut ++ ps ∧ 0 < ps.length ∧ 1 < ps.length :=
  ⟨by decide, _, _, rfl, rfl, by decide, by decide⟩

theorem witness_PacketizeIsItsMicroOperations : (txState 1 0 0 0).tx.maxPayload ≠ 0 ∧ (30 : BitVec 32) ≠ 0 ∧
    6 ≤ ([0, 0, 0, 1, 0x67, 1] : ByteString).length ∧ 6 ≤ ([0, 0, 0, 1, 0x67, 1, 2, 3] : ByteString).length := by decide

theorem witness_TsAdvanceAddsTheTick : (1 : BitVec 32) ≠ 0 ∧ (0 : BitVec 32) = 0 := by decide

theorem witness_MaxPayloadWriteTakesEffectNext :
    ({ State.reset with pending := [.writeMaxPayload 1] } : State).micro = [] ∧
    ({ State.reset with pending := [.writeMaxPayload 1] } : State).pending = .writeMaxPayload 1 :: [] ∧ (1 : BitVec 16) ≠ 0 ∧
    6 ≤ ([0, 0, 0, 1, 0x67, 1, 2] : ByteString).length ∧ (30 : BitVec 32) ≠ 0 := by decide

theorem witness_ConfigurationWrittenByResetOnly :
    (∃ t, exec .seqNext State.reset = .next t) ∧ (∀ mp c q ts, Instr.seqNext ≠ .txReset mp c q ts) ∧ (∀ n, Instr.seqNext ≠ .rxReset n) :=
  ⟨⟨_, rfl⟩, by simp, by simp⟩

theorem witness_AgentsShareNoState :
    (∃ t, exec .seqNext State.reset = .next t ∧ agentOf .seqNext = .tx) ∧
    (∃ t, exec (.onPacket []) State.reset = .next t ∧ agentOf (.onPacket []) = .rx) ∧
    (∃ t, exec (.nalhDec []) State.reset = .next t ∧ agentOf (.nalhDec []) = .codec) ∧ agentOf (.fuhEnc 0 0 0) = .codec ∧
    (∃ t t', exec (.onPacket []) (txState 1 0 0 0) = .next t ∧ exec (.onPacket []) State.reset = .next t' ∧
      (txState 1 0 0 0).rx = State.reset.rx) ∧
    (∃ t t', exec .seqNext (rxState 5 []) = .next t ∧ exec .seqNext State.reset = .next t' ∧ (rxState 5 []).tx = State.reset.tx) :=
  ⟨⟨_, rfl, rfl⟩, ⟨_, rfl, rfl⟩, ⟨_, rfl, rfl⟩, rfl, ⟨_, _, rfl, rfl, rfl⟩, ⟨_, _, rfl, rfl, rfl⟩⟩

/-- One instruction of each agent, with a status channel, without one, and with the error status. -/
theorem witness_EveryOperationEndsWithOneStatus :
    (∃ t, exec (.onPacket []) State.reset = .next t ∧ agentOf (.onPacket []) = .rx) ∧
    (∃ t, exec (.rxReset 5) State.reset = .next t ∧ (Instr.rxReset 5).row = 62) ∧
    (∃ t, exec (.packetize [] 0) State.reset = .next t ∧ agentOf (.packetize [] 0) = .tx) ∧
    (∃ t, exec .seqNext State.reset = .next t ∧ Instr.seqNext.row = 60) ∧
    (∃ t, exec (.tsAdvance 0) State.reset = .next t ∧ t.tx.ended = [.badFrameRate]) ∧
    (∃ t, exec (.nalhDec []) State.reset = .next t ∧ t.codecEnded = [.truncatedInput]) ∧
    (∃ t, exec (.nalhEnc 0 0 0) State.reset = .next t ∧ t.codecEnded = [.ok]) :=
  ⟨⟨_, rfl, rfl⟩, ⟨_, rfl, rfl⟩, ⟨_, rfl, rfl⟩, ⟨_, rfl, rfl⟩, ⟨_, rfl, rfl⟩, ⟨_, rfl, rfl⟩, ⟨_, rfl, rfl⟩⟩

/-- A `PACKETIZE` and a `TX_RESET` of the host that move `SEQ`, and each of the six micro-operations it cannot send. -/
theorem witness_HostCannotMoveTheCounters :
    (∃ t, step { txState 4 7 0 1 with pending := [.message ⟨.op, [13, 0, 0, 0, 30, 0, 0, 0, 1, 0x67, 0x42]⟩] } = .next t ∧
      t.tx.seq ≠ 7) ∧
    (∃ t, step { txState 4 7 0 1 with pending := [.message ⟨.op, [17, 4, 0, 0, 0, 0, 1, 0, 9, 0, 0, 0, 0]⟩] } = .next t ∧
      t.tx.seq ≠ 7) ∧
    (txState 4 7 0 1).micro = [] ∧
    (∀ i ∈ [Instr.txSingle 0 3 1 [1], .txFuStart 0 3 1 [1], .txFuMid 0 3 1 [1], .txFuEnd 0 3 1 [1], .seqNext, .tsAdvance 30],
      i.row ∈ [36, 37, 38, 39, 60, 61] ∧ decode (encode i) = .ok i) :=
  ⟨⟨_, rfl, by decide⟩, ⟨_, rfl, by decide⟩, rfl, by decide⟩

/-- A state in the middle of a reassembly, with a message that appends to the unit. -/
def assembling : State := { rxState 64 [0, 0, 0, 1, 0x65, 0xA0] with pending := [.message ⟨.pktIn, hdr ++ [0x7C, 0x05, 0xA4]⟩] }

theorem assembling_inv : assembling.Inv where
  rx :=
    { canonical := by decide
      inArray := by decide
      phase := by decide
      bounded := by decide
      filled := by unfold Rx.Filled; decide
      startCode := fun _ => rfl
      units := by decide }
  packets := by simp [assembling, rxState, State.reset, Tx.reset]

theorem witness_OutputsOnlyGrow : ∃ t, step assembling = .next t := ⟨_, rfl⟩

theorem witness_StepKeepsTheInvariant : assembling.Inv ∧ ∃ t, step assembling = .next t := ⟨assembling_inv, _, rfl⟩

/-- Each of the endings: a next state, a message that spells nothing, one that its sender may not issue (either way), and
`MAX_PAYLOAD = 0`. -/
theorem witness_EveryOperationEnds : assembling.Inv ∧ (∃ t, step assembling = .next t) ∧
    step { assembling with pending := [.message ⟨.op, [18]⟩] } = .refused (.badFrame .unknownOperation) ∧
    step { assembling with micro := [⟨.op, [18]⟩] } = .refused (.badFrame .unknownOperation) ∧
    step { assembling with pending := [.message ⟨.op, [14]⟩] } = .refused .wrongIssuer ∧
    step { assembling with micro := [⟨.op, [2, 0x67]⟩] } = .refused .wrongIssuer ∧
    step { txState 0 0 0 0 with pending := [.message ⟨.op, [13, 0, 0, 0, 30]⟩] } = .refused .illegalMaxPayload :=
  ⟨assembling_inv, ⟨_, rfl⟩, rfl, rfl, rfl, rfl, rfl⟩

/-- A single packet and a start fragment, on a receiver in the middle of a unit and on an empty one. -/
theorem witness_NewUnitForgetsTheOldOne :
    (13 ≤ (hdr ++ [0x61]).length ∧ 1 ≤ (byteAt (hdr ++ [0x61]) 12).toNat % 32 ∧ (byteAt (hdr ++ [0x61]) 12).toNat % 32 ≤ 23) ∧
    (14 ≤ (hdr ++ [0x7C, 0x80]).length ∧ (byteAt (hdr ++ [0x7C, 0x80]) 12).toNat % 32 = 28 ∧
      128 ≤ (byteAt (hdr ++ [0x7C, 0x80]) 13).toNat) ∧
    (rxState 64 []).rx =
      { (rxState 64 [0, 0, 0, 1, 0x65]).rx with acc := (rxState 64 []).rx.acc, accLen := (rxState 64 []).rx.accLen } ∧
    (∃ t t', exec (.onPacket (hdr ++ [0x7C, 0x80])) (rxState 64 [0, 0, 0, 1, 0x65]) = .next t ∧
      exec (.onPacket (hdr ++ [0x7C, 0x80])) (rxState 64 []) = .next t') ∧
    (∃ t t', exec (.onPacket (hdr ++ [0x61])) (rxState 64 [0, 0, 0, 1, 0x65]) = .next t ∧
      exec (.onPacket (hdr ++ [0x61])) (rxState 64 []) = .next t') :=
  ⟨by decide, by decide, rfl, ⟨_, _, rfl, rfl⟩, ⟨_, _, rfl, rfl⟩⟩

/-- A fragmented unit of header type 0, a whole one of type 23, and a receiver of exactly the unit's size. -/
theorem witness_PacketizeThenDepacketizeGivesTheUnit :
    (6 ≤ ([0, 0, 0, 1, 0x60, 1, 2] : ByteString).length ∧ ([0, 0, 0, 1, 0x60, 1, 2] : ByteString).take 4 = [0, 0, 0, 1] ∧
      (30 : BitVec 32) ≠ 0 ∧ (txState 1 0 0 0).tx.maxPayload ≠ 0 ∧
      (txState 1 0 0 0).tx.maxPayload.toNat < ([0, 0, 0, 1, 0x60, 1, 2] : ByteString).length - 5) ∧
    (1 ≤ (byteAt [0, 0, 0, 1, 0x77, 1] 4).toNat % 32 ∧ (byteAt [0, 0, 0, 1, 0x77, 1] 4).toNat % 32 ≤ 23) ∧
    ([0, 0, 0, 1, 0x60, 1, 2] : ByteString).length ≤ (rxState 7 [0, 0, 0, 1, 0x65]).rx.maxNalu := by decide

/-- Two instances that step, one position that holds none, and a step beside an instance whose own step is refused. -/
theorem witness_InstancesAreIndependent :
    (∃ a b, (0 : Nat) ≠ 1 ∧ System.stepAt 0 [assembling, State.reset] = .next a ∧
      System.stepAt 1 [assembling, State.reset] = .next b) ∧
    (∃ s s', ([assembling, State.reset] : System)[0]? = some s ∧ step s = .next s') ∧
    (∃ a, System.stepAt 2 [assembling, State.reset] = .next a ∧ ([assembling, State.reset] : System)[2]? = none) ∧
    (∃ a s, System.stepAt 0 [assembling, s] = .next a ∧ (1 : Nat) ≠ 0 ∧
      System.stepAt 1 [assembling, s] = .refused .wrongIssuer) :=
  ⟨⟨_, _, by decide, rfl, rfl⟩, ⟨_, _, rfl, rfl⟩, ⟨_, rfl, rfl⟩,
    ⟨_, { State.reset with pending := [.message ⟨.op, [14]⟩] }, rfl, by decide, rfl⟩⟩

theorem witness_DropAndConstruct : 0 < ([assembling, State.reset] : System).length ∧ (0 : Nat) < 1 ∧ ¬ (1 : Nat) < 1 := by decide

end Sys2Proof.Tests
end

section
/-! PROOFS of the codec family (40_codec.md R91 to R101). First what a shared codec operation answers, then each field
and each packed structure as the integer of the formula in the spec, then one theorem per obligation. -/

namespace Sys2Proof.Machine

/-! ### What the shared codec operations answer -/

/-- A decode of too few bytes gives `TruncatedInput` and no record (R102, R161). -/
theorem decodeStructure_of_short {w : Nat} {b : ByteString} (h : b.length < w) (record : ByteString → CodecResult)
    (s : State) :
    decodeStructure w record b s = .next (s.giveCodec (.raised .truncatedInput) .truncatedInput) := if_pos h

/-- A decode of enough bytes gives the record, whatever the bytes say. -/
theorem decodeStructure_of_enough {w : Nat} {b : ByteString} (h : w ≤ b.length) (record : ByteString → CodecResult)
    (s : State) : decodeStructure w record b s = .next (s.giveCodec (record b) .ok) := if_neg h.not_gt

/-- A one-byte structure is read from no bytes: `TruncatedInput`. -/
theorem decodeStructure_one_nil (record : ByteString → CodecResult) (s : State) :
    decodeStructure 1 record [] s = .next (s.giveCodec (.raised .truncatedInput) .truncatedInput) :=
  decodeStructure_of_short Nat.one_pos record s

/-- A one-byte structure is read from any other byte string. -/
theorem decodeStructure_one_cons (record : ByteString → CodecResult) (x : Byte) (rest : ByteString) (s : State) :
    decodeStructure 1 record (x :: rest) s = .next (s.giveCodec (record (x :: rest)) .ok) :=
  decodeStructure_of_enough (Nat.le_add_left 1 rest.length) record s

/-! ### What each decoder reads -/

theorem exec_nalhDec (b : ByteString) (s : State) : exec (.nalhDec b) s =
    decodeStructure 1 (fun b => .nal (nalF (byteAt b 0)) (nalNri (byteAt b 0)) (nalType (byteAt b 0))) b s := rfl
theorem exec_fuhDec (b : ByteString) (s : State) : exec (.fuhDec b) s =
    decodeStructure 1
      (fun b => .fuHeader (fuS (byteAt b 0)) (fuE (byteAt b 0)) (fuR (byteAt b 0)) (nalType (byteAt b 0))) b s := rfl
theorem exec_nalh265Dec (b : ByteString) (s : State) : exec (.nalh265Dec b) s =
    decodeStructure 2 (fun b => .nal265 (nal265F b) (nal265Type b) (nal265LayerId b) (nal265Tid b)) b s := rfl
theorem exec_fuh265Dec (b : ByteString) (s : State) : exec (.fuh265Dec b) s =
    decodeStructure 1 (fun b => .fu265 (fuS (byteAt b 0)) (fuE (byteAt b 0)) (fu265Type (byteAt b 0))) b s := rfl

/-! ### Bit fields as integers -/

/-- A field of `w` bits from bit `k` up is a quotient and a remainder. -/
theorem toNat_field {n : Nat} (v : BitVec n) (k w : Nat) : (v.extractLsb' k w).toNat = v.toNat / 2 ^ k % 2 ^ w := by
  rw [BitVec.extractLsb'_toNat, Nat.shiftRight_eq_div_pow]

/-- Two fields side by side are the integer of a sum. -/
theorem toNat_fields {m n : Nat} (x : BitVec m) (y : BitVec n) : (x ++ y).toNat = x.toNat * 2 ^ n + y.toNat := by
  rw [BitVec.toNat_append, ← Nat.shiftLeft_add_eq_or_of_lt y.isLt, Nat.shiftLeft_eq]

/-- The top bit of a byte needs no remainder. -/
theorem toNat_topBit (x : Byte) : (x.extractLsb' 7 1).toNat = x.toNat / 128 := by
  have := x.isLt
  rw [toNat_field]
  omega

theorem nalF_toNat (x : Byte) : (nalF x).toNat = x.toNat / 128 := toNat_topBit x
theorem nalNri_toNat (x : Byte) : (nalNri x).toNat = x.toNat / 32 % 4 := toNat_field x 5 2
theorem fuS_toNat (x : Byte) : (fuS x).toNat = x.toNat / 128 := toNat_topBit x
theorem fuE_toNat (x : Byte) : (fuE x).toNat = x.toNat / 64 % 2 := toNat_field x 6 1
theorem fuR_toNat (x : Byte) : (fuR x).toNat = x.toNat / 32 % 2 := toNat_field x 5 1
theorem fu265Type_toNat (x : Byte) : (fu265Type x).toNat = x.toNat % 64 := by
  simp [fu265Type]

/-- The FU indicator as the integer of R95: the type is always 28. -/
theorem fuIndicator_toNat (f : BitVec 1) (nri : BitVec 2) :
    (fuIndicator f nri).toNat = f.toNat * 128 + nri.toNat * 32 + 28 := nalByte_toNat f nri Config.fuaType

/-- The fields of an H.265 NAL header are those of the big-endian value of the first two bytes (R98). -/
theorem nal265_fields_toNat (b : ByteString) :
    let w := (byteAt b 0).toNat * 256 + (byteAt b 1).toNat
    (nal265F b).toNat = w / 32768 ∧ (nal265Type b).toNat = w / 512 % 64 ∧ (nal265LayerId b).toNat = w / 8 % 64 ∧
    (nal265Tid b).toNat = w % 8 := by
  have hx := (byteAt b 0).isLt
  have hy := (byteAt b 1).isLt
  simp only [nal265F, nal265Type, nal265LayerId, nal265Tid, toNat_field, be16_toNat, zero_add]
  refine ⟨?_, ?_, ?_, ?_⟩ <;> omega

/-! ### Bytes written, as integers -/

/-- The two bytes of a 16-bit number make up that number. -/
theorem toBe16_bytes_toNat (v : BitVec 16) :
    (byteAt (toBe16 v) 0).toNat * 256 + (byteAt (toBe16 v) 1).toNat = v.toNat := by
  have h : be16 (toBe16 v) 0 = v := be16_toBe16 v []
  rw [← be16_toNat, h]

/-- The two bytes of a 16-bit number, most significant first. -/
theorem map_toNat_toBe16 (v : BitVec 16) : (toBe16 v).map BitVec.toNat = [v.toNat / 256, v.toNat % 256] := by
  have hi : v.toNat / 256 < 256 := by omega
  simpa [toBe16_toNat] using Nat.mod_eq_of_lt hi

/-- The four bytes of a 32-bit number, most significant first. -/
theorem map_toNat_toBe32 (v : BitVec 32) : (toBe32 v).map BitVec.toNat =
    [v.toNat / 2 ^ 24, v.toNat / 2 ^ 16 % 256, v.toNat / 2 ^ 8 % 256, v.toNat % 256] := by
  have hi : v.toNat / 2 ^ 24 < 256 := by omega
  simpa [toBe32_toNat] using Nat.mod_eq_of_lt hi

/-- Byte 0 of an RTP header as the integer of R91. -/
theorem rtpByte0_toNat (v : BitVec 2) (p x : BitVec 1) (cc : BitVec 4) :
    (v ++ p ++ x ++ cc).toNat = v.toNat * 64 + p.toNat * 32 + x.toNat * 16 + cc.toNat := by
  simp only [toNat_fields]
  ring

/-- The twelve bytes of an RTP header as the integers of R91. -/
theorem map_toNat_rtpPack (h : RtpHeader) : (rtpPack h).map BitVec.toNat =
    [h.v.toNat * 64 + h.p.toNat * 32 + h.x.toNat * 16 + h.cc.toNat, h.m.toNat * 128 + h.pt.toNat,
     h.seq.toNat / 256, h.seq.toNat % 256,
     h.ts.toNat / 2 ^ 24, h.ts.toNat / 2 ^ 16 % 256, h.ts.toNat / 2 ^ 8 % 256, h.ts.toNat % 256,
     h.ssrc.toNat / 2 ^ 24, h.ssrc.toNat / 2 ^ 16 % 256, h.ssrc.toNat / 2 ^ 8 % 256, h.ssrc.toNat % 256] := by
  have h0 := rtpByte0_toNat h.v h.p h.x h.cc
  have h1 : (h.m ++ h.pt).toNat = h.m.toNat * 128 + h.pt.toNat := toNat_fields h.m h.pt
  rw [rtpPack, List.map_append, List.map_append, List.map_append, map_toNat_toBe16, map_toNat_toBe32, map_toNat_toBe32,
    List.map_cons, List.map_cons, h0, h1]
  rfl

/-! ### The encoders -/

/-- Settles O8: the answer is `rtpPack`, and its bytes are the integers of R91. -/
theorem rtpEncWritesTwelveBytes : Obligations.RtpEncWritesTwelveBytes :=
  fun h _ => ⟨rtpPack h, _, rfl, map_toNat_rtpPack h⟩

/-- Settles O10: the answer is `nalByte`, whose integer is R93's. -/
theorem nalhEncWritesOneByte : Obligations.NalhEncWritesOneByte :=
  fun f nri ty _ => ⟨nalByte f nri ty, _, rfl, nalByte_toNat f nri ty⟩

/-- Settles O12: the answer is `fuIndicator`, a NAL header byte of type 28. -/
theorem fuiEncWritesType28 : Obligations.FuiEncWritesType28 :=
  fun f nri _ => ⟨fuIndicator f nri, _, rfl, fuIndicator_toNat f nri⟩

/-- Settles O14: the answer is `fuHeader`, an FU header byte whose `R` is 0. -/
theorem fuhEncZeroesTheReservedBit : Obligations.FuhEncZeroesTheReservedBit :=
  fun sb e ty _ => ⟨fuHeader sb e ty, _, rfl, fuHeaderByte_toNat sb e 0 ty⟩

/-- Settles O16: the two bytes make up the 16 bits of the packed fields, whose integer is R99's. -/
theorem nalh265EncWritesTwoBytes : Obligations.Nalh265EncWritesTwoBytes :=
  fun f ty layerId tid _ =>
    ⟨byteAt (nal265Pack f ty layerId tid) 0, byteAt (nal265Pack f ty layerId tid) 1, _, rfl,
      (toBe16_bytes_toNat _).trans (nal265_toNat f ty layerId tid)⟩

/-- Settles O18: the answer is `fu265Byte`, whose integer is R101's. -/
theorem fuh265EncWritesOneByte : Obligations.Fuh265EncWritesOneByte :=
  fun sb e ty _ => ⟨fu265Byte sb e ty, _, rfl, fu265Byte_toNat sb e ty⟩

/-! ### The decoders -/

/-- Settles O9, by whether there is a first byte. -/
theorem nalhDecReadsOneByte : Obligations.NalhDecReadsOneByte := by
  intro s
  constructor
  · exact ⟨_, (exec_nalhDec [] s).trans (decodeStructure_one_nil _ s)⟩
  · intro x rest
    exact ⟨nalF x, nalNri x, nalType x, _, (exec_nalhDec (x :: rest) s).trans (decodeStructure_one_cons _ x rest s),
      nalF_toNat x, nalNri_toNat x, nalType_toNat x⟩

/-- Settles O13, by whether there is a first byte. -/
theorem fuhDecReadsOneByte : Obligations.FuhDecReadsOneByte := by
  intro s
  constructor
  · exact ⟨_, (exec_fuhDec [] s).trans (decodeStructure_one_nil _ s)⟩
  · intro x rest
    exact ⟨fuS x, fuE x, fuR x, nalType x, _, (exec_fuhDec (x :: rest) s).trans (decodeStructure_one_cons _ x rest s),
      fuS_toNat x, fuE_toNat x, fuR_toNat x, nalType_toNat x⟩

/-- Settles O15, by whether there are two bytes. -/
theorem nalh265DecReadsTwoBytes : Obligations.Nalh265DecReadsTwoBytes := by
  intro s
  constructor
  · intro b hb
    exact ⟨_, (exec_nalh265Dec b s).trans (decodeStructure_of_short hb _ s)⟩
  · intro x y rest
    have hlen : 2 ≤ (x :: y :: rest).length := Nat.le_add_left 2 rest.length
    exact ⟨_, _, _, _, _, (exec_nalh265Dec _ s).trans (decodeStructure_of_enough hlen _ s),
      nal265_fields_toNat (x :: y :: rest)⟩

/-- Settles O17, by whether there is a first byte. -/
theorem fuh265DecReadsOneByte : Obligations.Fuh265DecReadsOneByte := by
  intro s
  constructor
  · exact ⟨_, (exec_fuh265Dec [] s).trans (decodeStructure_one_nil _ s)⟩
  · intro x rest
    exact ⟨fuS x, fuE x, fu265Type x, _, (exec_fuh265Dec (x :: rest) s).trans (decodeStructure_one_cons _ x rest s),
      fuS_toNat x, fuE_toNat x, fu265Type_toNat x⟩

end Sys2Proof.Machine
end

section
/-! PROOFS of the depacketizer family (41_depacketizer.md R111): a packet too short to have a NAL header. -/

namespace Sys2Proof.Machine

/-- On a packet shorter than 13 bytes `ON_PACKET` takes none of its arms: it only gives the status (R111). -/
theorem Rx.onPacket_of_tooShort {p : ByteString} (h : p.length < 13) (r : Rx) :
    r.onPacket p = .next (r.finish .packetTooShort) := if_pos h

/-- The class of packets that are too short only gives the status. -/
theorem exec_rxTooShort (p : ByteString) (s : State) :
    exec (.rxTooShort p) s = .next { s with rx := s.rx.finish .packetTooShort } := rfl

/-- `ON_PACKET` on a packet that is too short does what its class does. -/
theorem exec_onPacket_of_tooShort {p : ByteString} (h : p.length < 13) (s : State) :
    exec (.onPacket p) s = .next { s with rx := s.rx.finish .packetTooShort } :=
  State.onRx_eq_next.2 ⟨_, Rx.onPacket_of_tooShort h s.rx, rfl⟩

/-- Settles O21, by the operation and the row: each finishes with `PacketTooShort`, whose record of given statuses grows
by that status. -/
theorem tooShortPacketRejected : Obligations.TooShortPacketRejected := by
  intro p s hshort i hi
  refine ⟨s.rx.ended ++ [.packetTooShort], ?_⟩
  obtain rfl | rfl : i = .onPacket p ∨ i = .rxTooShort p := by simpa using hi
  · exact exec_onPacket_of_tooShort hshort s
  · exact exec_rxTooShort p s

end Sys2Proof.Machine
end

section
/-! PROOFS of the sequence family (43_sequence.md R150): what `SEQ_NEXT` does to the sequence number. -/

namespace Sys2Proof.Machine

/-- The step of the counter, as R150 writes it on integers. -/
theorem Tx.seqNext_seq_toNat (t : Tx) : t.seqNext.seq.toNat = (t.seq.toNat + 1) % 65536 := by
  rw [Tx.seqNext_seq, BitVec.toNat_add]
  rfl

/-- `SEQ_NEXT` steps the counter of the transmit instance and ends with `OK`. -/
theorem exec_seqNext (s : State) : exec .seqNext s = .next { s with tx := s.tx.seqNext.done .ok } := rfl

/-- Settles O43: the new sequence number is the stepped counter's, whose integer is R150's, and the record of given
statuses grows by `OK`. -/
theorem seqNextStepsTheSequenceNumber : Obligations.SeqNextStepsTheSequenceNumber :=
  fun s => ⟨s.tx.seqNext.seq, s.tx.ended ++ [Status.ok], exec_seqNext s, s.tx.seqNext_seq_toNat⟩

end Sys2Proof.Machine
end

section
/-! PROOFS about the decoder (30_encoding.md R70 to R72): it reads back every message that the encoder writes. -/

namespace Sys2Proof.Laws.RoundTrip

/-- The decoder reads back the message of every well-formed instruction: one law for each row of the table. -/
theorem decode_encode (i : Instr) : Statement i :=
  match i with
  | .rxTooShort p => rxTooShort p
  | .rxSingleT01 h f nri rest => rxSingleT01 h f nri rest
  | .rxSingleT02 h f nri rest => rxSingleT02 h f nri rest
  | .rxSingleT03 h f nri rest => rxSingleT03 h f nri rest
  | .rxSingleT04 h f nri rest => rxSingleT04 h f nri rest
  | .rxSingleT05 h f nri rest => rxSingleT05 h f nri rest
  | .rxSingleT06 h f nri rest => rxSingleT06 h f nri rest
  | .rxSingleT07 h f nri rest => rxSingleT07 h f nri rest
  | .rxSingleT08 h f nri rest => rxSingleT08 h f nri rest
  | .rxSingleT09 h f nri rest => rxSingleT09 h f nri rest
  | .rxSingleT10 h f nri rest => rxSingleT10 h f nri rest
  | .rxSingleT11 h f nri rest => rxSingleT11 h f nri rest
  | .rxSingleT12 h f nri rest => rxSingleT12 h f nri rest
  | .rxSingleT13 h f nri rest => rxSingleT13 h f nri rest
  | .rxSingleT14 h f nri rest => rxSingleT14 h f nri rest
  | .rxSingleT15 h f nri rest => rxSingleT15 h f nri rest
  | .rxSingleT16 h f nri rest => rxSingleT16 h f nri rest
  | .rxSingleT17 h f nri rest => rxSingleT17 h f nri rest
  | .rxSingleT18 h f nri rest => rxSingleT18 h f nri rest
  | .rxSingleT19 h f nri rest => rxSingleT19 h f nri rest
  | .rxSingleT20 h f nri rest => rxSingleT20 h f nri rest
  | .rxSingleT21 h f nri rest => rxSingleT21 h f nri rest
  | .rxSingleT22 h f nri rest => rxSingleT22 h f nri rest
  | .rxSingleT23 h f nri rest => rxSingleT23 h f nri rest
  | .rxFuTrunc h f nri => rxFuTrunc h f nri
  | .rxFuStart h f nri e r ty body => rxFuStart h f nri e r ty body
  | .rxFuMid h f nri r ty body => rxFuMid h f nri r ty body
  | .rxFuEnd h f nri r ty body => rxFuEnd h f nri r ty body
  | .rxOtherT00 h f nri rest => rxOtherT00 h f nri rest
  | .rxOtherT24 h f nri rest => rxOtherT24 h f nri rest
  | .rxOtherT25 h f nri rest => rxOtherT25 h f nri rest
  | .rxOtherT26 h f nri rest => rxOtherT26 h f nri rest
  | .rxOtherT27 h f nri rest => rxOtherT27 h f nri rest
  | .rxOtherT29 h f nri rest => rxOtherT29 h f nri rest
  | .rxOtherT30 h f nri rest => rxOtherT30 h f nri rest
  | .rxOtherT31 h f nri rest => rxOtherT31 h f nri rest
  | .txSingle f nri ty rest => txSingle f nri ty rest
  | .txFuStart f nri ty slice => txFuStart f nri ty slice
  | .txFuMid f nri ty slice => txFuMid f nri ty slice
  | .txFuEnd f nri ty slice => txFuEnd f nri ty slice
  | .structRtpHeader h => structRtpHeader h
  | .structNalHeaderH264 f nri ty => structNalHeaderH264 f nri ty
  | .structFuIndicatorH264 f nri => structFuIndicatorH264 f nri
  | .structFuHeaderH264 sb e ty => structFuHeaderH264 sb e ty
  | .structNalHeaderH265 f ty layerId tid => structNalHeaderH265 f ty layerId tid
  | .structFuHeaderH265 sb e fuType => structFuHeaderH265 sb e fuType
  | .rtpDec b => rtpDec b
  | .rtpEnc h => rtpEnc h
  | .nalhDec b => nalhDec b
  | .nalhEnc f nri ty => nalhEnc f nri ty
  | .fuiDec b => fuiDec b
  | .fuiEnc f nri => fuiEnc f nri
  | .fuhDec b => fuhDec b
  | .fuhEnc sb e ty => fuhEnc sb e ty
  | .nalh265Dec b => nalh265Dec b
  | .nalh265Enc f ty layerId tid => nalh265Enc f ty layerId tid
  | .fuh265Dec b => fuh265Dec b
  | .fuh265Enc sb e fuType => fuh265Enc sb e fuType
  | .onPacket p => onPacket p
  | .packetize u fps => packetize u fps
  | .seqNext => seqNext
  | .tsAdvance fps => tsAdvance fps
  | .rxReset maxNalu => rxReset maxNalu
  | .txReset maxPayload ssrc seq ts => txReset maxPayload ssrc seq ts

end Sys2Proof.Laws.RoundTrip

namespace Sys2Proof.Machine

/-- Settles O2, by the instruction's row. -/
theorem decodeInvertsEncode : Obligations.DecodeInvertsEncode := Laws.RoundTrip.decode_encode

end Sys2Proof.Machine
end

section
/-! PROOFS about the classes of an inbound packet (30_encoding.md R70): the class by the numbers of the decode map, and
what follows of its bytes, its meaning and its row of the table. -/

namespace Sys2Proof.Machine

/-! ### The rows of a type, as the decode map gives them -/

/-- The 23 rows of `RX_SINGLE` are what the decode map gives for the types 1 to 23. -/
theorem singleRows_eq_map (h : RtpHeader) (f : BitVec 1) (nri : BitVec 2) (p : ByteString) :
    singleRows h f nri (p.drop 13) =
      (List.range' 1 23).map (fun n => (BitVec.ofNat 5 n, classifyType n h f nri p)) := rfl

/-- The eight rows of `RX_OTHER` are what the decode map gives for the other types. -/
theorem otherRows_eq_map (h : RtpHeader) (f : BitVec 1) (nri : BitVec 2) (p : ByteString) :
    otherRows h f nri (p.drop 13) =
      [0, 24, 25, 26, 27, 29, 30, 31].map (fun n => (BitVec.ofNat 5 n, classifyType n h f nri p)) := rfl

theorem classifyType_mem_singleRows {t : BitVec 5} (h1 : 1 ≤ t.toNat) (h23 : t.toNat ≤ 23) (h : RtpHeader)
    (f : BitVec 1) (nri : BitVec 2) (p : ByteString) :
    (t, classifyType t.toNat h f nri p) ∈ singleRows h f nri (p.drop 13) := by
  rw [singleRows_eq_map]
  exact List.mem_map.2 ⟨t.toNat, List.mem_range'_1.2 ⟨h1, by omega⟩, by simp⟩

theorem classifyType_mem_otherRows {t : BitVec 5} (ht : t.toNat ∈ [0, 24, 25, 26, 27, 29, 30, 31]) (h : RtpHeader)
    (f : BitVec 1) (nri : BitVec 2) (p : ByteString) :
    (t, classifyType t.toNat h f nri p) ∈ otherRows h f nri (p.drop 13) := by
  rw [otherRows_eq_map]
  exact List.mem_map.2 ⟨t.toNat, ht, by simp⟩

/-! ### The class of a packet -/

theorem fuS_eq_one_iff (x : Byte) : fuS x = 1 ↔ 128 ≤ x.toNat := by revert x; decide

theorem fuE_eq_zero_iff {x : Byte} (h : ¬ fuS x = 1) : fuE x = 0 ↔ x.toNat < 64 := by revert x; decide

theorem classify_of_long {p : ByteString} (h : 13 ≤ p.length) : classify p =
    classifyType (nalType (byteAt p 12)).toNat (rtpUnpack p) (nalF (byteAt p 12)) (nalNri (byteAt p 12)) p :=
  if_neg h.not_gt

/-- The decode map by cases on the packet, in the numbers of R70: each packet falls under exactly one of them, the same
as for `ON_PACKET` (`Rx.onPacket_cases`). -/
theorem classify_cases (p : ByteString) :
    let h := rtpUnpack p
    let b0 := byteAt p 12
    let fh := byteAt p 13
    let t := b0.toNat % 32
    (p.length < 13 ∧ classify p = .rxTooShort p) ∨
    (13 ≤ p.length ∧ 1 ≤ t ∧ t ≤ 23 ∧ (nalType b0, classify p) ∈ singleRows h (nalF b0) (nalNri b0) (p.drop 13)) ∨
    (p.length = 13 ∧ t = 28 ∧ classify p = .rxFuTrunc h (nalF b0) (nalNri b0)) ∨
    (14 ≤ p.length ∧ t = 28 ∧ 128 ≤ fh.toNat ∧
      classify p = .rxFuStart h (nalF b0) (nalNri b0) (fuE fh) (fuR fh) (nalType fh) (p.drop 14)) ∨
    (14 ≤ p.length ∧ t = 28 ∧ fh.toNat < 64 ∧
      classify p = .rxFuMid h (nalF b0) (nalNri b0) (fuR fh) (nalType fh) (p.drop 14)) ∨
    (14 ≤ p.length ∧ t = 28 ∧ 64 ≤ fh.toNat ∧ fh.toNat < 128 ∧
      classify p = .rxFuEnd h (nalF b0) (nalNri b0) (fuR fh) (nalType fh) (p.drop 14)) ∨
    (13 ≤ p.length ∧ t ∈ [0, 24, 25, 26, 27, 29, 30, 31] ∧
      (nalType b0, classify p) ∈ otherRows h (nalF b0) (nalNri b0) (p.drop 13)) := by
  dsimp only
  rcases Nat.lt_or_ge p.length 13 with hl | hl
  · exact .inl ⟨hl, if_pos hl⟩
  have ht := nalType_toNat (byteAt p 12)
  rw [classify_of_long hl]
  by_cases h1 : 1 ≤ (byteAt p 12).toNat % 32 ∧ (byteAt p 12).toNat % 32 ≤ 23
  · exact .inr (.inl ⟨hl, h1.1, h1.2, classifyType_mem_singleRows (by omega) (by omega) _ _ _ p⟩)
  by_cases h28 : (byteAt p 12).toNat % 32 = 28
  · have hfu : ∀ h f nri, classifyType (nalType (byteAt p 12)).toNat h f nri p = classifyFuA h f nri p := by
      rw [ht, h28]
      intros
      rfl
    rw [hfu, classifyFuA]
    by_cases h13 : p.length < 14
    · exact .inr (.inr (.inl ⟨by omega, h28, if_pos h13⟩))
    dsimp only
    rw [if_neg h13]
    by_cases hs : fuS (byteAt p 13) = 1
    · exact .inr (.inr (.inr (.inl ⟨by omega, h28, (fuS_eq_one_iff _).1 hs, if_pos hs⟩)))
    have hlt : (byteAt p 13).toNat < 128 := Nat.lt_of_not_le (fun h => hs ((fuS_eq_one_iff _).2 h))
    rw [if_neg hs]
    by_cases he : fuE (byteAt p 13) = 0
    · exact .inr (.inr (.inr (.inr (.inl ⟨by omega, h28, (fuE_eq_zero_iff hs).1 he, if_pos he⟩))))
    · have hge : 64 ≤ (byteAt p 13).toNat := Nat.le_of_not_lt (fun h => he ((fuE_eq_zero_iff hs).2 h))
      exact .inr (.inr (.inr (.inr (.inr (.inl ⟨by omega, h28, hge, hlt, if_neg he⟩)))))
  · have hm : (byteAt p 12).toNat % 32 ∈ [0, 24, 25, 26, 27, 29, 30, 31] := by
      simp only [List.mem_cons, List.not_mem_nil, or_false]
      omega
    exact .inr (.inr (.inr (.inr (.inr (.inr ⟨hl, hm, classifyType_mem_otherRows (ht ▸ hm) _ _ _ p⟩)))))

/-! ### The bytes of a class -/

/-- A packet of at least 13 bytes is its header, its type byte and the rest. -/
theorem packet_eta {p : ByteString} (h : 13 ≤ p.length) : rtpPack (rtpUnpack p) ++ byteAt p 12 :: p.drop 13 = p := by
  rw [rtpPack_rtpUnpack p (by omega), byteAt_eq_getElem (by omega), List.getElem_cons_drop, List.take_append_drop]

/-- A packet of at least 14 bytes is its header, its type byte, its FU header and the rest. -/
theorem packet_eta_fu {p : ByteString} (h : 14 ≤ p.length) :
    rtpPack (rtpUnpack p) ++ byteAt p 12 :: byteAt p 13 :: p.drop 14 = p := by
  rw [byteAt_eq_getElem (b := p) (k := 13) (by omega), List.getElem_cons_drop, packet_eta (by omega)]

/-- A byte of type 28 is the FU indicator of its own fields. -/
theorem fuIndicator_eta {x : Byte} (h : x.toNat % 32 = 28) : fuIndicator (nalF x) (nalNri x) = x := by
  have ht : nalType x = Config.fuaType := BitVec.eq_of_toNat_eq ((nalType_toNat x).trans h)
  rw [fuIndicator, ← ht, nalByte_eta]

theorem encode_singleRow {h : RtpHeader} {f : BitVec 1} {nri : BitVec 2} {rest : ByteString} {x : BitVec 5 × Instr}
    (hx : x ∈ singleRows h f nri rest) : encode x.2 = ⟨.pktIn, rtpPack h ++ nalByte f nri x.1 :: rest⟩ := by
  have key : (singleRows h f nri rest).map (fun x => encode x.2) =
      (singleRows h f nri rest).map (fun x => ⟨.pktIn, rtpPack h ++ nalByte f nri x.1 :: rest⟩) := rfl
  exact List.map_inj_left.1 key x hx

theorem encode_otherRow {h : RtpHeader} {f : BitVec 1} {nri : BitVec 2} {rest : ByteString} {x : BitVec 5 × Instr}
    (hx : x ∈ otherRows h f nri rest) : encode x.2 = ⟨.pktIn, rtpPack h ++ nalByte f nri x.1 :: rest⟩ := by
  have key : (otherRows h f nri rest).map (fun x => encode x.2) =
      (otherRows h f nri rest).map (fun x => ⟨.pktIn, rtpPack h ++ nalByte f nri x.1 :: rest⟩) := rfl
  exact List.map_inj_left.1 key x hx

/-- The FU header of a start fragment, from its fields. -/
theorem fuHeaderByte_eta_start : ∀ x : Byte, 128 ≤ x.toNat → fuHeaderByte 1 (fuE x) (fuR x) (nalType x) = x := by decide

/-- Encoding a packet's class gives the packet: each case of the decode map keeps every byte. -/
theorem encode_classify (p : ByteString) : encode (classify p) = ⟨.pktIn, p⟩ := by
  have hfh0 : ∀ x : Byte, x.toNat < 64 → fuHeaderByte 0 0 (fuR x) (nalType x) = x := by decide
  have hfh1 : ∀ x : Byte, 64 ≤ x.toNat → x.toNat < 128 → fuHeaderByte 0 1 (fuR x) (nalType x) = x := by decide
  rcases classify_cases p with ⟨-, e⟩ | ⟨hl, -, -, hx⟩ | ⟨hl, h28, e⟩ | ⟨hl, h28, hs, e⟩ | ⟨hl, h28, hm, e⟩ |
    ⟨hl, h28, h64, h128, e⟩ | ⟨hl, -, hx⟩
  · rw [e, encode]
  · rw [encode_singleRow hx, nalByte_eta, packet_eta hl]
  · have hp := packet_eta hl.ge
    rw [List.drop_of_length_le hl.le] at hp
    rw [e, encode, fuIndicator_eta h28, hp]
  · rw [e, encode, fuIndicator_eta h28, fuHeaderByte_eta_start _ hs, packet_eta_fu hl]
  · rw [e, encode, fuIndicator_eta h28, hfh0 _ hm, packet_eta_fu hl]
  · rw [e, encode, fuIndicator_eta h28, hfh1 _ h64 h128, packet_eta_fu hl]
  · rw [encode_otherRow hx, nalByte_eta, packet_eta hl]

/-- Settles O3: every message of `pkt_in` is decoded by the decode map, which keeps every byte. -/
theorem packetDecodeLosesNothing : Obligations.PacketDecodeLosesNothing :=
  fun p => ⟨rfl, encode_classify p⟩

end Sys2Proof.Machine
end

section
/-! PROOFS about the table's class rows (30_encoding.md R70): every word falls under exactly one of them, and it is the row
of the class that the decode map gives. -/

namespace Sys2Proof.Machine

/-! ### Every word falls under exactly one class row -/

/-- Masking `n` bits from bit `k` up cuts out a field and puts it back in its place. -/
theorem and_fieldMask (w n k : Nat) : w &&& (2 ^ n - 1) * 2 ^ k = w / 2 ^ k % 2 ^ n * 2 ^ k := by
  have hlow : (w &&& (2 ^ n - 1) * 2 ^ k) % 2 ^ k = 0 := by
    rw [Nat.and_mod_two_pow, Nat.mul_mod_left, Nat.and_zero]
  have hhigh : (w &&& (2 ^ n - 1) * 2 ^ k) / 2 ^ k = w / 2 ^ k % 2 ^ n := by
    rw [Nat.and_div_two_pow, Nat.mul_div_cancel _ (Nat.two_pow_pos k), Nat.and_two_pow_sub_one_eq_mod]
  rw [← hhigh, Nat.div_mul_cancel (Nat.dvd_of_mod_eq_zero hlow)]

/-- A class row looks at no other bits of the word than the type, `S` and `E`: bits 12 to 6. -/
theorem classRows_mask {r : ClassRow} (h : r ∈ classRows) : 0x1FC0 &&& r.mask = r.mask := by
  revert r; decide

/-- Each value of those seven bits satisfies exactly one class row. -/
theorem classRows_partition_selector : ∀ n : BitVec 7, ∃ r ∈ classRows, n.toNat * 64 &&& r.mask = r.value ∧
    ∀ r' ∈ classRows, n.toNat * 64 &&& r'.mask = r'.value → r' = r := by
  decide

/-- A class row sees of a word its seven bits. -/
theorem and_mask_eq_selector {r : ClassRow} (h : r ∈ classRows) (w : Nat) :
    w &&& r.mask = (BitVec.ofNat 7 (w / 64)).toNat * 64 &&& r.mask := by
  have hw : w &&& 0x1FC0 = w / 64 % 128 * 64 := and_fieldMask w 7 6
  rw [BitVec.toNat_ofNat, ← hw, Nat.and_assoc, classRows_mask h]

theorem classRows_partition (w : Nat) : ∃ r ∈ classRows, w &&& r.mask = r.value ∧
    ∀ r' ∈ classRows, w &&& r'.mask = r'.value → r' = r := by
  obtain ⟨r, hr, hv, huniq⟩ := classRows_partition_selector (BitVec.ofNat 7 (w / 64))
  refine ⟨r, hr, (and_mask_eq_selector hr w).trans hv, fun r' hr' hv' => ?_⟩
  exact huniq r' hr' ((and_mask_eq_selector hr' w).symm.trans hv')

/-- Settles O5: the seven bits that the class rows look at have 128 values, each of which satisfies exactly one row. -/
theorem classRowsPartitionTheWord : Obligations.ClassRowsPartitionTheWord :=
  ⟨rfl, fun w _ => classRows_partition w⟩

/-! ### The row of a packet's class -/

/-- The rows of the table that are class rows differ in their place, and `RX_TOO_SHORT` and `RX_FU_TRUNC` are none. -/
theorem classRows_row_injective : ∀ r ∈ classRows, ∀ r' ∈ classRows, r.row = r'.row → r = r' := by decide

theorem classRows_row_ne {r : ClassRow} (h : r ∈ classRows) : r.row ≠ 0 ∧ r.row ≠ 24 := by
  revert r; decide

/-- No class row of mask 1F00 has type 28. -/
theorem classRows_value_ne {r : ClassRow} (h : r ∈ classRows) : r.mask = 0x1F00 → r.value ≠ 28 * 256 := by
  revert r; decide

/-- Of the class rows a word satisfies the one in the place of any that it satisfies. -/
theorem and_mask_eq_value_iff {w : Nat} {r r' : ClassRow} (hr : r ∈ classRows) (hw : w &&& r.mask = r.value)
    (hr' : r' ∈ classRows) : w &&& r'.mask = r'.value ↔ r.row = r'.row := by
  obtain ⟨q, -, -, huniq⟩ := classRows_partition w
  constructor
  · intro hw'
    rw [huniq r hr hw, huniq r' hr' hw']
  · intro hrow
    rwa [← classRows_row_injective r hr r' hr' hrow]

theorem singleRow_mem_classRows {h : RtpHeader} {f : BitVec 1} {nri : BitVec 2} {rest : ByteString} {t : BitVec 5}
    {i : Instr} (hx : (t, i) ∈ singleRows h f nri rest) : ⟨t.toNat * 256, 0x1F00, i.row⟩ ∈ classRows := by
  have hrows : (singleRows h f nri rest).map (fun x => (x.1.toNat, x.2.row)) =
      (List.range' 1 23).map (fun n => (n, n)) := rfl
  have hclass : ∀ y ∈ (List.range' 1 23).map (fun n => (n, n)), ⟨y.1 * 256, 0x1F00, y.2⟩ ∈ classRows := by decide
  exact hclass (t.toNat, i.row) (hrows ▸ List.mem_map.2 ⟨(t, i), hx, rfl⟩)

theorem otherRow_mem_classRows {h : RtpHeader} {f : BitVec 1} {nri : BitVec 2} {rest : ByteString} {t : BitVec 5}
    {i : Instr} (hx : (t, i) ∈ otherRows h f nri rest) : ⟨t.toNat * 256, 0x1F00, i.row⟩ ∈ classRows := by
  have hrows : (otherRows h f nri rest).map (fun x => (x.1.toNat, x.2.row)) =
      [(0, 28), (24, 29), (25, 30), (26, 31), (27, 32), (29, 33), (30, 34), (31, 35)] := rfl
  have hclass : ∀ y ∈ [(0, 28), (24, 29), (25, 30), (26, 31), (27, 32), (29, 33), (30, 34), (31, 35)],
      ⟨y.1 * 256, 0x1F00, y.2⟩ ∈ classRows := by decide
  exact hclass (t.toNat, i.row) (hrows ▸ List.mem_map.2 ⟨(t, i), hx, rfl⟩)

/-- A packet of another type than 28 has the class row of its type. -/
theorem classRow_of_type {p : ByteString} (hl : 13 ≤ p.length) (ht : (byteAt p 12).toNat % 32 ≠ 28) :
    ⟨(byteAt p 12).toNat % 32 * 256, 0x1F00, (classify p).row⟩ ∈ classRows := by
  rw [← nalType_toNat]
  rcases classify_cases p with ⟨h, -⟩ | ⟨-, -, -, hx⟩ | ⟨-, h, -⟩ | ⟨-, h, -⟩ | ⟨-, h, -⟩ | ⟨-, h, -⟩ | ⟨-, -, hx⟩
  · omega
  · exact singleRow_mem_classRows hx
  · exact absurd h ht
  · exact absurd h ht
  · exact absurd h ht
  · exact absurd h ht
  · exact otherRow_mem_classRows hx

/-- The word of a packet satisfies the class row of its class. -/
theorem classWord_matches_classRow {p : ByteString} (hl : 14 ≤ p.length) :
    ∃ r ∈ classRows, r.row = (classify p).row ∧ classWord p &&& r.mask = r.value := by
  have h13 := (byteAt p 13).isLt
  by_cases ht : (byteAt p 12).toNat % 32 = 28
  · rcases classify_cases p with ⟨h, -⟩ | ⟨-, h, h', -⟩ | ⟨h, -, -⟩ | ⟨-, -, hs, e⟩ | ⟨-, -, hm, e⟩ | ⟨-, -, h64, h128, e⟩ |
      ⟨-, h, -⟩
    · omega
    · omega
    · omega
    · refine ⟨⟨0x1C80, 0x1F80, 25⟩, by decide, by rw [e]; rfl, (and_fieldMask _ 6 7).trans ?_⟩
      simp only [classWord]
      omega
    · refine ⟨⟨0x1C00, 0x1FC0, 26⟩, by decide, by rw [e]; rfl, (and_fieldMask _ 7 6).trans ?_⟩
      simp only [classWord]
      omega
    · refine ⟨⟨0x1C40, 0x1FC0, 27⟩, by decide, by rw [e]; rfl, (and_fieldMask _ 7 6).trans ?_⟩
      simp only [classWord]
      omega
    · simp [ht] at h
  · refine ⟨_, classRow_of_type (by omega) ht, rfl, (and_fieldMask _ 5 8).trans ?_⟩
    simp only [classWord]
    omega

/-- Among packets of 13 bytes those of type 28, and no others, are `RX_FU_TRUNC`. -/
theorem classify_row_eq_24_iff {p : ByteString} (hl : p.length = 13) :
    (classify p).row = 24 ↔ (byteAt p 12).toNat % 32 = 28 := by
  constructor
  · intro hrow
    by_contra ht
    exact (classRows_row_ne (classRow_of_type hl.ge ht)).2 hrow
  · intro ht
    have e : classify p = classifyFuA (rtpUnpack p) (nalF (byteAt p 12)) (nalNri (byteAt p 12)) p := by
      rw [classify_of_long hl.ge, nalType_toNat, ht]
      rfl
    rw [e, classifyFuA, if_pos (by omega)]
    rfl

/-- The packets shorter than 13 bytes, and no others, are `RX_TOO_SHORT`. -/
theorem classify_row_eq_zero_iff (p : ByteString) : (classify p).row = 0 ↔ p.length < 13 := by
  constructor
  · intro hrow
    by_contra hl
    rcases Nat.lt_or_ge 13 p.length with hl14 | hl13
    · obtain ⟨r, hr, hr0, -⟩ := classWord_matches_classRow hl14
      exact (classRows_row_ne hr).1 (hr0.trans hrow)
    · by_cases ht : (byteAt p 12).toNat % 32 = 28
      · have h24 := (classify_row_eq_24_iff (p := p) (by omega)).2 ht
        omega
      · exact (classRows_row_ne (classRow_of_type (by omega) ht)).1 hrow
  · intro hl
    rw [show classify p = .rxTooShort p from if_pos hl]
    rfl

/-- Settles O4: each packet satisfies the row of its class, and by the partition no other one. -/
theorem classRowsSelectTheInstruction : Obligations.ClassRowsSelectTheInstruction := by
  intro p
  refine ⟨fun hl r hr => ?_, fun hl => ⟨fun r hr hmask x hx => ?_, ?_⟩, (classify_row_eq_zero_iff p).symm⟩
  · obtain ⟨r₀, hr₀, hrow, hw⟩ := classWord_matches_classRow hl
    rw [and_mask_eq_value_iff hr₀ hw hr, hrow]
  · have hw : (byteAt p 12).toNat * 256 + x &&& 0x1F00 = (byteAt p 12).toNat % 32 * 256 :=
      (and_fieldMask _ 5 8).trans (by omega)
    by_cases ht : (byteAt p 12).toNat % 32 = 28
    · have h24 := (classify_row_eq_24_iff hl).2 ht
      rw [hmask, hw, ht, h24]
      exact iff_of_false (classRows_value_ne hr hmask).symm (classRows_row_ne hr).2.symm
    · exact and_mask_eq_value_iff (classRow_of_type hl.ge ht) hw hr
  · rw [classify_row_eq_24_iff hl]
    exact (Nat.and_two_pow_sub_one_eq_mod (byteAt p 12).toNat 5) ▸ Iff.rfl

end Sys2Proof.Machine
end

section
/-! PROOFS about the receive side (41_depacketizer.md): which arm `ON_PACKET` takes, the next state of each arm written out,
and the statements about single packets, fragments and packets of other types. -/

namespace Sys2Proof.Machine

/-! ### The arm that `ON_PACKET` takes -/

/-- The types of `RX_OTHER` are those of no single unit and no FU-A packet (R70). -/
theorem mem_otherTypes {t : Nat} (h : t ∈ [0, 24, 25, 26, 27, 29, 30, 31]) : (t < 1 ∨ 23 < t) ∧ t ≠ 28 := by
  revert h; simp only [List.mem_cons, List.not_mem_nil, or_false]; omega

theorem Rx.onPacket_of_single {p : ByteString} (hl : 13 ≤ p.length) (h1 : 1 ≤ (byteAt p 12).toNat % 32)
    (h23 : (byteAt p 12).toNat % 32 ≤ 23) (r : Rx) :
    r.onPacket p = (r.pushDiag (rtpUnpack p)).single (byteAt p 12) (p.drop 13) := by
  rcases Rx.onPacket_cases p r with ⟨h, -⟩ | ⟨-, -, -, e⟩ | ⟨-, h, -⟩ | ⟨-, h, -⟩ | ⟨-, h, -⟩ | ⟨-, h, -⟩ | ⟨-, h, -⟩
  case inr.inl => exact e
  case inr.inr.inr.inr.inr.inr =>
    have := mem_otherTypes h
    omega
  all_goals omega

theorem Rx.onPacket_of_truncated {p : ByteString} (hl : p.length = 13) (ht : (byteAt p 12).toNat % 32 = 28) (r : Rx) :
    r.onPacket p = .next ((r.pushDiag (rtpUnpack p)).finish .truncatedInput) := by
  rcases Rx.onPacket_cases p r with ⟨h, -⟩ | ⟨-, -, h, -⟩ | ⟨-, -, e⟩ | ⟨h, -⟩ | ⟨h, -⟩ | ⟨h, -⟩ | ⟨-, h, -⟩
  case inr.inr.inl => exact e
  case inr.inr.inr.inr.inr.inr =>
    have := mem_otherTypes h
    omega
  all_goals omega

theorem Rx.onPacket_of_start {p : ByteString} (hl : 14 ≤ p.length) (ht : (byteAt p 12).toNat % 32 = 28)
    (hs : 128 ≤ (byteAt p 13).toNat) (r : Rx) :
    r.onPacket p = (r.pushDiag (rtpUnpack p)).fuStart (byteAt p 12) (byteAt p 13) (p.drop 14) := by
  rcases Rx.onPacket_cases p r with ⟨h, -⟩ | ⟨-, -, h, -⟩ | ⟨h, -⟩ | ⟨-, -, -, e⟩ | ⟨-, -, h, -⟩ | ⟨-, -, -, h, -⟩ |
    ⟨-, h, -⟩
  case inr.inr.inr.inl => exact e
  case inr.inr.inr.inr.inr.inr =>
    have := mem_otherTypes h
    omega
  all_goals omega

theorem Rx.onPacket_of_mid {p : ByteString} (hl : 14 ≤ p.length) (ht : (byteAt p 12).toNat % 32 = 28)
    (hm : (byteAt p 13).toNat < 64) (r : Rx) :
    r.onPacket p = (r.pushDiag (rtpUnpack p)).fuMid (p.drop 14) := by
  rcases Rx.onPacket_cases p r with ⟨h, -⟩ | ⟨-, -, h, -⟩ | ⟨h, -⟩ | ⟨-, -, h, -⟩ | ⟨-, -, -, e⟩ | ⟨-, -, h, -⟩ | ⟨-, h, -⟩
  case inr.inr.inr.inr.inl => exact e
  case inr.inr.inr.inr.inr.inr =>
    have := mem_otherTypes h
    omega
  all_goals omega

theorem Rx.onPacket_of_end {p : ByteString} (hl : 14 ≤ p.length) (ht : (byteAt p 12).toNat % 32 = 28)
    (h64 : 64 ≤ (byteAt p 13).toNat) (h128 : (byteAt p 13).toNat < 128) (r : Rx) :
    r.onPacket p = (r.pushDiag (rtpUnpack p)).fuEnd (p.drop 14) := by
  rcases Rx.onPacket_cases p r with ⟨h, -⟩ | ⟨-, -, h, -⟩ | ⟨h, -⟩ | ⟨-, -, h, -⟩ | ⟨-, -, h, -⟩ | ⟨-, -, -, -, e⟩ | ⟨-, h, -⟩
  case inr.inr.inr.inr.inr.inl => exact e
  case inr.inr.inr.inr.inr.inr =>
    have := mem_otherTypes h
    omega
  all_goals omega

theorem Rx.onPacket_of_other {p : ByteString} (hl : 13 ≤ p.length)
    (ht : (byteAt p 12).toNat % 32 ∈ [0, 24, 25, 26, 27, 29, 30, 31]) (r : Rx) :
    r.onPacket p = .next ((r.pushDiag (rtpUnpack p)).finish .unclassifiedNaluType) := by
  have hother := mem_otherTypes ht
  rcases Rx.onPacket_cases p r with ⟨h, -⟩ | ⟨-, h, h', -⟩ | ⟨-, h, -⟩ | ⟨-, h, -⟩ | ⟨-, h, -⟩ | ⟨-, h, -⟩ | ⟨-, -, e⟩
  case inr.inr.inr.inr.inr.inr => exact e
  all_goals omega

/-! ### From the receive instance to the whole state -/

/-- An operation of the receive instance puts there the next state it answers. -/
theorem State.onRx_of_next {f : Rx → Result Rx} {s : State} {r : Rx} (h : f s.rx = .next r) :
    s.onRx f = .next { s with rx := r } := State.onRx_eq_next.2 ⟨r, h, rfl⟩

/-- Two operations that do the same to the receive instance of a state do the same to the state. -/
theorem State.onRx_congr {f g : Rx → Result Rx} {s : State} (h : f s.rx = g s.rx) : s.onRx f = s.onRx g := by
  rw [State.onRx, State.onRx, h]

theorem exec_onPacket (p : ByteString) (s : State) : exec (.onPacket p) s = s.onRx (fun r => r.onPacket p) := rfl

theorem exec_rxFuTrunc (h : RtpHeader) (f : BitVec 1) (nri : BitVec 2) (s : State) :
    exec (.rxFuTrunc h f nri) s = s.onRx (fun r => (r.pushDiag h).fuTrunc) := rfl

theorem exec_rxFuStart (h : RtpHeader) (f : BitVec 1) (nri : BitVec 2) (e r : BitVec 1) (ty : BitVec 5) (body : ByteString)
    (s : State) : exec (.rxFuStart h f nri e r ty body) s =
      s.onRx (fun x => (x.pushDiag h).fuStart (fuIndicator f nri) (fuHeaderByte 1 e r ty) body) := rfl

theorem exec_rxFuMid (h : RtpHeader) (f : BitVec 1) (nri : BitVec 2) (r : BitVec 1) (ty : BitVec 5) (body : ByteString)
    (s : State) : exec (.rxFuMid h f nri r ty body) s = s.onRx (fun x => (x.pushDiag h).fuMid body) := rfl

theorem exec_rxFuEnd (h : RtpHeader) (f : BitVec 1) (nri : BitVec 2) (r : BitVec 1) (ty : BitVec 5) (body : ByteString)
    (s : State) : exec (.rxFuEnd h f nri r ty body) s = s.onRx (fun x => (x.pushDiag h).fuEnd body) := rfl

theorem exec_singleRow {h : RtpHeader} {f : BitVec 1} {nri : BitVec 2} {rest : ByteString} {x : BitVec 5 × Instr}
    (hx : x ∈ singleRows h f nri rest) (s : State) :
    exec x.2 s = s.onRx (fun r => (r.pushDiag h).single (nalByte f nri x.1) rest) := by
  have key : (singleRows h f nri rest).map (fun x => exec x.2 s) =
      (singleRows h f nri rest).map (fun x => rxSingle x.1 h f nri rest s) := rfl
  exact List.map_inj_left.1 key x hx

theorem exec_otherRow {h : RtpHeader} {f : BitVec 1} {nri : BitVec 2} {rest : ByteString} {x : BitVec 5 × Instr}
    (hx : x ∈ otherRows h f nri rest) (s : State) :
    exec x.2 s = s.onRx (fun r => (r.pushDiag h).other) := by
  have key : (otherRows h f nri rest).map (fun x => exec x.2 s) =
      (otherRows h f nri rest).map (fun _ => rxOther h s) := rfl
  exact List.map_inj_left.1 key x hx

/-- `ON_PACKET` runs the instruction of the packet's class: the two decode maps take the same arm, with the same fields. -/
theorem exec_onPacket_eq_classify (p : ByteString) (s : State) : exec (.onPacket p) s = exec (classify p) s := by
  rcases classify_cases p with ⟨hl, e⟩ | ⟨hl, h1, h23, hx⟩ | ⟨hl, h28, e⟩ | ⟨hl, h28, hs, e⟩ | ⟨hl, h28, hm, e⟩ |
    ⟨hl, h28, h64, h128, e⟩ | ⟨hl, ht, hx⟩
  · rw [e, exec_onPacket_of_tooShort hl, exec_rxTooShort]
  · rw [exec_singleRow hx, nalByte_eta, exec_onPacket]
    exact State.onRx_congr (Rx.onPacket_of_single hl h1 h23 s.rx)
  · rw [e, exec_rxFuTrunc, exec_onPacket]
    exact State.onRx_congr (Rx.onPacket_of_truncated hl h28 s.rx)
  · rw [e, exec_rxFuStart, fuIndicator_eta h28, fuHeaderByte_eta_start _ hs, exec_onPacket]
    exact State.onRx_congr (Rx.onPacket_of_start hl h28 hs s.rx)
  · rw [e, exec_rxFuMid, exec_onPacket]
    exact State.onRx_congr (Rx.onPacket_of_mid hl h28 hm s.rx)
  · rw [e, exec_rxFuEnd, exec_onPacket]
    exact State.onRx_congr (Rx.onPacket_of_end hl h28 h64 h128 s.rx)
  · rw [exec_otherRow hx, exec_onPacket]
    exact State.onRx_congr (Rx.onPacket_of_other hl ht s.rx)

/-- Settles O22. -/
theorem onPacketRunsItsClass : Obligations.OnPacketRunsItsClass := exec_onPacket_eq_classify

/-! ### The next state of each arm -/

/-- A started unit: its bytes stand from address 0, and `ACC_LEN` is their number (R41). -/
theorem Rx.startUnit_eq (hdr : Byte) (b : ByteString) (r : Rx) : r.startUnit hdr b =
    { r with acc := r.acc.writeBytes 0 ([0, 0, 0, 1] ++ hdr :: b), accLen := 5 + b.length } := by
  have h : (r.startUnit hdr b).acc = r.acc.writeBytes 0 ([0, 0, 0, 1] ++ hdr :: b) := r.startUnit_acc_eq hdr b
  rw [← h]
  rfl

theorem Rx.single_of_fits {r : Rx} {rest : ByteString} (h : 5 + rest.length ≤ r.maxNalu) (hdr : Byte) :
    r.single hdr rest = .next { r with
      acc := r.acc.writeBytes 0 ([0, 0, 0, 1] ++ hdr :: rest)
      accLen := 0
      naluOut := r.naluOut ++ [[0, 0, 0, 1] ++ hdr :: rest]
      rxStatus := r.rxStatus ++ [.ok]
      ended := r.ended ++ [.ok] } := by
  rw [Rx.single_eq, if_neg h.not_gt, Rx.startUnit_eq]
  rfl

theorem Rx.single_of_overflow {r : Rx} {rest : ByteString} (h : r.maxNalu < 5 + rest.length) (hdr : Byte) :
    r.single hdr rest = .next ((r.setAccLen 0).finish .reassemblyOverflow) := by
  rw [Rx.single_eq, if_pos h]

theorem Rx.fuStart_of_fits {r : Rx} {body : ByteString} (h : 5 + body.length ≤ r.maxNalu) (b0 fh : Byte) :
    r.fuStart b0 fh body = .next { r with
      acc := r.acc.writeBytes 0 ([0, 0, 0, 1] ++ synthesisedHeader b0 fh :: body)
      accLen := 5 + body.length
      rxStatus := r.rxStatus ++ [.ok]
      ended := r.ended ++ [.ok] } := by
  rw [Rx.fuStart_eq, if_neg h.not_gt, Rx.startUnit_eq]
  rfl

theorem Rx.fuStart_of_overflow {r : Rx} {body : ByteString} (h : r.maxNalu < 5 + body.length) (b0 fh : Byte) :
    r.fuStart b0 fh body = .next ((r.setAccLen 0).finish .reassemblyOverflow) := by
  rw [Rx.fuStart_eq, if_pos h]

/-- A middle or end fragment without a start is dropped with `OK` (R117, R118; D19, D21). -/
theorem Rx.fuMid_of_idle {r : Rx} (h : r.accLen = 0) (body : ByteString) : r.fuMid body = .next (r.finish .ok) := by
  rw [Rx.fuMid_eq, if_pos h]

theorem Rx.fuMid_of_fits {r : Rx} {body : ByteString} (h0 : r.accLen ≠ 0) (h : r.accLen + body.length ≤ r.maxNalu) :
    r.fuMid body = .next ((r.append body).finish .ok) := by
  rw [Rx.fuMid_eq, if_neg h0, if_neg h.not_gt]

theorem Rx.fuMid_of_overflow {r : Rx} {body : ByteString} (h0 : r.accLen ≠ 0) (h : r.maxNalu < r.accLen + body.length) :
    r.fuMid body = .next ((r.setAccLen 0).finish .reassemblyOverflow) := by
  rw [Rx.fuMid_eq, if_neg h0, if_pos h]

theorem Rx.fuEnd_of_idle {r : Rx} (h : r.accLen = 0) (body : ByteString) : r.fuEnd body = .next (r.finish .ok) :=
  if_pos h

theorem Rx.fuEnd_of_fits {r : Rx} {body u : ByteString} (h0 : r.accLen ≠ 0) (h : r.accLen + body.length ≤ r.maxNalu)
    (hu : r.acc.readBytes 0 r.accLen = .ok u) :
    r.fuEnd body = .next ((((r.append body).pushNalu (u ++ body)).setAccLen 0).finish .ok) := by
  rw [Rx.fuEnd_of_read hu, if_neg h0, if_neg h.not_gt]

theorem Rx.fuEnd_of_overflow {r : Rx} {body : ByteString} (h0 : r.accLen ≠ 0) (h : r.maxNalu < r.accLen + body.length) :
    r.fuEnd body = .next ((r.setAccLen 0).finish .reassemblyOverflow) :=
  (if_neg h0).trans (if_pos h)

/-! ### The arms as statements about the operation and the rows -/

/-- Settles O23: `ON_PACKET` and the rows run `Rx.single`, whose guard decides between its two next states. -/
theorem singlePacketEmitsItsUnit : Obligations.SinglePacketEmitsItsUnit := by
  constructor
  · intro p s hl h1 h23
    have hunit : p.drop 12 = byteAt p 12 :: p.drop 13 := by
      rw [byteAt_eq_getElem (by omega), List.getElem_cons_drop]
    have hlen : 5 + (p.drop 13).length = p.length - 8 := by
      rw [List.length_drop]
      omega
    have hrun := Rx.onPacket_of_single hl h1 h23 s.rx
    rw [hunit, ← hlen, exec_onPacket]
    exact ⟨fun h => State.onRx_of_next (hrun.trans (Rx.single_of_fits (r := s.rx.pushDiag _) h _)),
      fun h => State.onRx_of_next (hrun.trans (Rx.single_of_overflow (r := s.rx.pushDiag _) h _))⟩
  · intro h f nri rest s x hx
    rw [exec_singleRow hx]
    exact ⟨fun h => State.onRx_of_next (Rx.single_of_fits (r := s.rx.pushDiag _) h _),
      fun h => State.onRx_of_next (Rx.single_of_overflow (r := s.rx.pushDiag _) h _)⟩

/-- Settles O24: `ON_PACKET` and the row run `Rx.fuTrunc`. -/
theorem truncatedFragmentRejected : Obligations.TruncatedFragmentRejected :=
  ⟨fun _ s hl ht => State.onRx_of_next (Rx.onPacket_of_truncated hl ht s.rx), fun _ _ _ _ => rfl⟩

/-- Settles O25: `ON_PACKET` and the row run `Rx.fuStart`, whose guard decides between its two next states. -/
theorem fragmentStartBeginsAUnit : Obligations.FragmentStartBeginsAUnit := by
  constructor
  · intro p s hl ht hs
    have hrun := Rx.onPacket_of_start hl ht hs s.rx
    rw [← List.length_drop, exec_onPacket]
    exact ⟨fun h => State.onRx_of_next (hrun.trans (Rx.fuStart_of_fits (r := s.rx.pushDiag _) h _ _)),
      fun h => State.onRx_of_next (hrun.trans (Rx.fuStart_of_overflow (r := s.rx.pushDiag _) h _ _))⟩
  · intro h f nri e r ty body s
    have hhdr : nalByte f nri ty = synthesisedHeader (fuIndicator f nri) (fuHeaderByte 1 e r ty) := by
      rw [synthesisedHeader_eq, nalF_fuIndicator, nalNri_fuIndicator, nalType_fuHeaderByte]
    rw [hhdr, exec_rxFuStart]
    exact ⟨fun h => State.onRx_of_next (Rx.fuStart_of_fits (r := s.rx.pushDiag _) h _ _),
      fun h => State.onRx_of_next (Rx.fuStart_of_overflow (r := s.rx.pushDiag _) h _ _)⟩

/-- Settles O26: `ON_PACKET` and the row run `Rx.fuMid`, which has three next states. -/
theorem fragmentMiddleAppends : Obligations.FragmentMiddleAppends := by
  intro p h f nri r ty s hl ht hm hh i hi
  subst hh
  have hrun : exec i s = s.onRx (fun x => (x.pushDiag (rtpUnpack p)).fuMid (p.drop 14)) := by
    obtain rfl | rfl : i = .onPacket p ∨ i = .rxFuMid (rtpUnpack p) f nri r ty (p.drop 14) := by simpa using hi
    · exact State.onRx_congr (Rx.onPacket_of_mid hl ht hm s.rx)
    · exact exec_rxFuMid ..
  rw [hrun, ← List.length_drop]
  exact ⟨fun h0 => State.onRx_of_next (Rx.fuMid_of_idle (r := s.rx.pushDiag _) h0 _),
    fun h0 h => State.onRx_of_next (Rx.fuMid_of_fits h0 h),
    fun h0 h => State.onRx_of_next (Rx.fuMid_of_overflow h0 h)⟩

/-- Settles O27: `ON_PACKET` and the row run `Rx.fuEnd`, which has three next states when the bytes are there. -/
theorem fragmentEndEmitsTheUnit : Obligations.FragmentEndEmitsTheUnit := by
  intro p h f nri r ty u s hl ht h64 h128 hh hu i hi
  subst hh
  have hrun : exec i s = s.onRx (fun x => (x.pushDiag (rtpUnpack p)).fuEnd (p.drop 14)) := by
    obtain rfl | rfl : i = .onPacket p ∨ i = .rxFuEnd (rtpUnpack p) f nri r ty (p.drop 14) := by simpa using hi
    · exact State.onRx_congr (Rx.onPacket_of_end hl ht h64 h128 s.rx)
    · exact exec_rxFuEnd ..
  rw [hrun, ← List.length_drop]
  exact ⟨fun h0 => State.onRx_of_next (Rx.fuEnd_of_idle (r := s.rx.pushDiag _) h0 _),
    fun h0 h => State.onRx_of_next (Rx.fuEnd_of_fits h0 h hu),
    fun h0 h => State.onRx_of_next (Rx.fuEnd_of_overflow h0 h)⟩

/-- Settles O29: `ON_PACKET` and the rows run `Rx.other`. -/
theorem otherTypesIgnored : Obligations.OtherTypesIgnored := by
  constructor
  · intro p s hl ht
    exact State.onRx_of_next (Rx.onPacket_of_other hl ht s.rx)
  · intro h f nri rest s x hx
    rw [exec_otherRow hx]
    exact State.onRx_of_next (Rx.other_eq _)

end Sys2Proof.Machine
end

section
/-! PROOFS about the receive side between operations (41_depacketizer.md R120 to R122): what a faulting emission names, which
bytes of the accumulator stand, how the phase moves, what one `ON_PACKET` gives, and what a new unit forgets. -/

namespace Sys2Proof.Machine

/-! ### The fault of an emission (log entry 5) -/

/-- Reading stops at the first address that nothing has written. -/
theorem Memory.readBytes_of_unwritten {m : Memory} {a n j : Nat} (hj : j < n) (hnone : m.read (a + j) = none)
    (hsome : ∀ i < j, (m.read (a + i)).isSome) : m.readBytes a n = .error (.accByteNeverWritten (a + j)) := by
  induction n generalizing a j with
  | zero => omega
  | succ n ih =>
    rw [Memory.readBytes]
    cases j with
    | zero =>
      rw [show m.read a = none from hnone]
      rfl
    | succ j =>
      have hshift : ∀ i, a + 1 + i = a + (i + 1) := fun i => by omega
      obtain ⟨v, hv⟩ := Option.isSome_iff_exists.1 (hsome 0 (by omega))
      have htail : m.readBytes (a + 1) n = .error (.accByteNeverWritten (a + 1 + j)) := by
        refine ih (by omega) (by rwa [hshift]) (fun i hi => ?_)
        rw [hshift]
        exact hsome (i + 1) (by omega)
      rw [show m.read a = some v from hv, htail, hshift]

theorem Rx.emitAndEmpty_of_fault {r : Rx} {e : Fault} (h : r.acc.readBytes 0 r.accLen = .error e) :
    r.emitAndEmpty = .fault e := by
  rw [Rx.emitAndEmpty, Rx.emitNalu, h]
  rfl

/-- Settles O28: the body is written behind `ACC_LEN`, so the emission reads up to the unwritten byte and stops there. -/
theorem unwrittenAccumulatorByteFaults : Obligations.UnwrittenAccumulatorByteFaults := by
  intro h f nri r ty body a s hfits ha hnone hsome
  have hbelow : ∀ x < s.rx.accLen, (s.rx.acc.writeBytes s.rx.accLen body).read x = s.rx.acc.read x := fun x hx => by
    rw [Memory.read_writeBytes, if_neg (by omega)]
  have hread : ((s.rx.pushDiag h).append body).acc.readBytes 0 (s.rx.accLen + body.length) =
      .error (.accByteNeverWritten (0 + a)) := by
    refine Memory.readBytes_of_unwritten (by omega) ?_ (fun i hi => ?_)
    · rw [Nat.zero_add]
      exact (hbelow a ha).trans hnone
    · rw [Nat.zero_add]
      exact (hbelow i (by omega)).symm ▸ hsome i hi
  rw [Nat.zero_add] at hread
  have hend : (s.rx.pushDiag h).fuEnd body = .fault (.accByteNeverWritten a) :=
    (if_neg (Nat.ne_of_gt (Nat.lt_of_le_of_lt (Nat.zero_le a) ha))).trans
      ((if_neg hfits.not_gt).trans (Rx.emitAndEmpty_of_fault hread))
  rw [exec_rxFuEnd, State.onRx, hend]
  rfl

/-! ### The bytes of the accumulator that stand (R41, R48) -/

/-- A unit of `5 + n` bytes written from address 0 leaves every byte behind it. -/
theorem Memory.read_writeUnit_of_le {m : Memory} {hdr : Byte} {rest : ByteString} {a : Nat} (h : 5 + rest.length ≤ a) :
    (m.writeBytes 0 ([0, 0, 0, 1] ++ hdr :: rest)).read a = m.read a := by
  rw [Memory.read_writeBytes, if_neg]
  simp
  omega

theorem Rx.single_frame {hdr : Byte} {rest : ByteString} {r r' : Rx} {a : Nat} (h : r.single hdr rest = .next r')
    (ha : ¬ (5 + rest.length ≤ r.maxNalu ∧ a < 5 + rest.length)) : r'.acc.read a = r.acc.read a := by
  rcases Nat.lt_or_ge r.maxNalu (5 + rest.length) with hover | hfits
  · rw [Rx.single_of_overflow hover] at h
    cases h
    rfl
  · rw [Rx.single_of_fits hfits] at h
    cases h
    exact Memory.read_writeUnit_of_le (by omega)

theorem Rx.fuStart_frame {b0 fh : Byte} {body : ByteString} {r r' : Rx} {a : Nat} (h : r.fuStart b0 fh body = .next r')
    (ha : ¬ (5 + body.length ≤ r.maxNalu ∧ a < 5 + body.length)) : r'.acc.read a = r.acc.read a := by
  rcases Nat.lt_or_ge r.maxNalu (5 + body.length) with hover | hfits
  · rw [Rx.fuStart_of_overflow hover] at h
    cases h
    rfl
  · rw [Rx.fuStart_of_fits hfits] at h
    cases h
    exact Memory.read_writeUnit_of_le (by omega)

/-- A body appended while assembling leaves every byte outside its own addresses. -/
theorem Rx.append_frame {body : ByteString} {r : Rx} {a : Nat} (ha : ¬ (r.accLen ≤ a ∧ a < r.accLen + body.length)) :
    (r.append body).acc.read a = r.acc.read a := by
  rw [Rx.append_acc, Memory.read_writeBytes, if_neg ha]

theorem Rx.fuMid_frame {body : ByteString} {r r' : Rx} {a : Nat} (h : r.fuMid body = .next r')
    (ha : ¬ (r.accLen ≠ 0 ∧ r.accLen + body.length ≤ r.maxNalu ∧ r.accLen ≤ a ∧ a < r.accLen + body.length)) :
    r'.acc.read a = r.acc.read a := by
  rw [Rx.fuMid_eq] at h
  split at h
  · cases h
    rfl
  · split at h <;> cases h
    · rfl
    · exact Rx.append_frame (fun hin => ha ⟨by assumption, by omega, hin⟩)

theorem Rx.fuEnd_frame {body : ByteString} {r r' : Rx} {a : Nat} (h : r.fuEnd body = .next r')
    (ha : ¬ (r.accLen ≠ 0 ∧ r.accLen + body.length ≤ r.maxNalu ∧ r.accLen ≤ a ∧ a < r.accLen + body.length)) :
    r'.acc.read a = r.acc.read a := by
  obtain ⟨-, rfl⟩ | ⟨-, -, rfl⟩ | ⟨h0, hfits, u, -, rfl⟩ := Rx.fuEnd_eq_next h
  · rfl
  · rfl
  · exact Rx.append_frame (fun hin => ha ⟨h0, hfits, hin⟩)

/-- Settles O31, by the class: each has the frame of its arm. -/
theorem accumulatorFrame : Obligations.AccumulatorFrame := by
  intro s t a h f nri e r ty b
  refine ⟨fun x hx hexec ha => ?_, fun hexec ha => ?_, fun i hi hexec ha => ?_, fun i hi hexec => ?_, fun x hx hexec => ?_⟩
  · rw [exec_singleRow hx] at hexec
    obtain ⟨r', hr', rfl⟩ := State.onRx_eq_next.1 hexec
    exact Rx.single_frame (r := s.rx.pushDiag h) hr' ha
  · rw [exec_rxFuStart] at hexec
    obtain ⟨r', hr', rfl⟩ := State.onRx_eq_next.1 hexec
    exact Rx.fuStart_frame (r := s.rx.pushDiag h) hr' ha
  · obtain rfl | rfl : i = .rxFuMid h f nri r ty b ∨ i = .rxFuEnd h f nri r ty b := by simpa using hi
    · rw [exec_rxFuMid] at hexec
      obtain ⟨r', hr', rfl⟩ := State.onRx_eq_next.1 hexec
      exact Rx.fuMid_frame (r := s.rx.pushDiag h) hr' ha
    · rw [exec_rxFuEnd] at hexec
      obtain ⟨r', hr', rfl⟩ := State.onRx_eq_next.1 hexec
      exact Rx.fuEnd_frame (r := s.rx.pushDiag h) hr' ha
  · obtain rfl | rfl : i = .rxFuTrunc h f nri ∨ i = .rxTooShort b := by simpa using hi
    · cases hexec
      rfl
    · cases hexec
      rfl
  · rw [exec_otherRow hx] at hexec
    cases hexec
    rfl

/-! ### The overflow guard (R120) -/

/-- An `ON_PACKET` that ends in `ReassemblyOverflow` writes and emits nothing, and empties the accumulator. -/
theorem Rx.onPacket_overflow {p : ByteString} {r r' : Rx} (h : r.onPacket p = .next r')
    (hs : r'.rxStatus = r.rxStatus ++ [.reassemblyOverflow]) :
    r'.acc = r.acc ∧ r'.naluOut = r.naluOut ∧ r'.accLen = 0 := by
  rcases Rx.onPacket_arm h with ⟨-, rfl⟩ | ⟨-, harm⟩
  · simp at hs
  · cases harm with
    | overflow => exact ⟨rfl, rfl, rfl⟩
    | _ => simp at hs

/-- A middle or end fragment for an empty accumulator is dropped with `OK`. -/
theorem Rx.onPacket_of_orphan {q : ByteString} (hl : 14 ≤ q.length) (ht : (byteAt q 12).toNat % 32 = 28)
    (hs : (byteAt q 13).toNat < 128) {r : Rx} (h0 : r.accLen = 0) :
    r.onPacket q = .next ((r.pushDiag (rtpUnpack q)).finish .ok) := by
  rcases Nat.lt_or_ge (byteAt q 13).toNat 64 with hm | he
  · exact (Rx.onPacket_of_mid hl ht hm r).trans (Rx.fuMid_of_idle (r := r.pushDiag _) h0 _)
  · exact (Rx.onPacket_of_end hl ht he hs r).trans (Rx.fuEnd_of_idle (r := r.pushDiag _) h0 _)

/-- Feeding one packet after another. -/
theorem feed_cons {q : ByteString} {qs : List ByteString} {s : State} {r : Rx} (h : s.rx.onPacket q = .next r) :
    feed (q :: qs) s = feed qs { s with rx := r } := by
  have hexec : exec (.onPacket q) s = .next { s with rx := r } := State.onRx_of_next h
  rw [feed, List.map_cons, execAll, hexec]
  rfl

/-- A run of middle and end fragments for an empty accumulator is dropped. -/
theorem feed_of_orphans {qs : List ByteString} {s : State}
    (hqs : ∀ q ∈ qs, 14 ≤ q.length ∧ (byteAt q 12).toNat % 32 = 28 ∧ (byteAt q 13).toNat < 128) (h0 : s.rx.accLen = 0) :
    ∃ t, feed qs s = .next t ∧ t.rx.acc = s.rx.acc ∧ t.rx.naluOut = s.rx.naluOut ∧ t.rx.accLen = 0 ∧
      t.rx.rxStatus = s.rx.rxStatus ++ List.replicate qs.length .ok := by
  induction qs generalizing s with
  | nil => exact ⟨s, rfl, rfl, rfl, h0, (List.append_nil _).symm⟩
  | cons q qs ih =>
    obtain ⟨hl, ht, hs⟩ := hqs q List.mem_cons_self
    obtain ⟨t, hfeed, hacc, hout, hlen, hstatus⟩ :=
      ih (s := { s with rx := (s.rx.pushDiag (rtpUnpack q)).finish .ok })
        (fun q' hq' => hqs q' (List.mem_cons_of_mem q hq')) h0
    refine ⟨t, (feed_cons (Rx.onPacket_of_orphan hl ht hs h0)).trans hfeed, hacc, hout, hlen, ?_⟩
    rw [hstatus]
    simp [List.replicate_succ]

/-- Settles O30: the guard leaves the accumulator empty, and fragments that find it empty are dropped. -/
theorem overflowDropsTheRestOfTheUnit : Obligations.OverflowDropsTheRestOfTheUnit := by
  intro p s t hexec hs
  rw [exec_onPacket] at hexec
  obtain ⟨r, hr, rfl⟩ := State.onRx_eq_next.1 hexec
  obtain ⟨hacc, hout, hlen⟩ := Rx.onPacket_overflow hr hs
  refine ⟨hacc, hout, hlen, fun qs hqs => ?_⟩
  obtain ⟨t', hfeed, hacc', hout', hlen', hstatus⟩ := feed_of_orphans (s := { s with rx := r }) hqs hlen
  exact ⟨t', hfeed, hacc'.trans hacc, hout'.trans hout, hlen', hstatus⟩

/-! ### What one `ON_PACKET` gives (R110, R112, R122) -/

/-- What an arm gives: one status, at most one unit and that with `OK`, nothing on `rx_diag`; and the statuses that are no
`OK` and no `ReassemblyOverflow` leave the accumulator. -/
theorem Rx.Arm.outputs {r r' : Rx} (h : r.Arm r') :
    ∃ k us, r'.rxStatus = r.rxStatus ++ [k] ∧ r'.naluOut = r.naluOut ++ us ∧ us.length ≤ 1 ∧ (us ≠ [] → k = .ok) ∧
      (k ∈ [Status.packetTooShort, .truncatedInput, .unclassifiedNaluType] →
        r'.acc = r.acc ∧ r'.accLen = r.accLen ∧ us = []) ∧
      r'.rxDiag = r.rxDiag ∧ r'.maxNalu = r.maxNalu := by
  cases h with
  | truncated => exact ⟨.truncatedInput, [], by simp⟩
  | other => exact ⟨.unclassifiedNaluType, [], by simp⟩
  | dropped => exact ⟨.ok, [], by simp⟩
  | overflow => exact ⟨.reassemblyOverflow, [], by simp⟩
  | single hdr rest => exact ⟨.ok, [Config.startCode ++ hdr :: rest], by simp⟩
  | start => exact ⟨.ok, [], by simp⟩
  | mid => exact ⟨.ok, [], by simp⟩
  | fin body u => exact ⟨.ok, [u], by simp⟩

/-- Settles O33: the length check, or the header on `rx_diag` and then an arm. -/
theorem onPacketOutputs : Obligations.OnPacketOutputs := by
  intro p s t hexec
  rw [exec_onPacket] at hexec
  obtain ⟨r, hr, rfl⟩ := State.onRx_eq_next.1 hexec
  rcases Rx.onPacket_arm hr with ⟨hl, rfl⟩ | ⟨hl, harm⟩
  · rw [if_pos hl]
    exact ⟨⟨.packetTooShort, [], by simp⟩, by simp⟩
  · rw [if_neg hl.not_gt]
    obtain ⟨k, us, hk, hus, hone, hok, herr, hdiag, hmax⟩ := harm.outputs
    exact ⟨⟨k, us, hk, hus, hone, hok, herr⟩, hdiag, hmax⟩

/-! ### A new unit forgets the old one (R121) -/

/-- Single packets: what the accumulator held has no part in the next state but in the bytes of `ACC` themselves. -/
theorem Rx.single_forgets {hdr : Byte} {rest : ByteString} {r r' x x' : Rx}
    (hr : r' = { r with acc := r'.acc, accLen := r'.accLen }) (h : r.single hdr rest = .next x)
    (h' : r'.single hdr rest = .next x') :
    x' = { x with acc := x'.acc } ∧ ∀ a < x.accLen, x'.acc.read a = x.acc.read a := by
  have hmax : r'.maxNalu = r.maxNalu := by rw [hr]
  rcases Nat.lt_or_ge r.maxNalu (5 + rest.length) with hover | hfits
  · rw [Rx.single_of_overflow hover] at h
    rw [Rx.single_of_overflow (by omega)] at h'
    cases h
    cases h'
    exact ⟨by rw [hr]; rfl, fun a ha => absurd ha (Nat.not_lt_zero a)⟩
  · rw [Rx.single_of_fits hfits] at h
    rw [Rx.single_of_fits (by omega)] at h'
    cases h
    cases h'
    exact ⟨by rw [hr], fun a ha => absurd ha (Nat.not_lt_zero a)⟩

/-- Start fragments: the same, and the bytes below `ACC_LEN` are those of the new unit. -/
theorem Rx.fuStart_forgets {b0 fh : Byte} {body : ByteString} {r r' x x' : Rx}
    (hr : r' = { r with acc := r'.acc, accLen := r'.accLen }) (h : r.fuStart b0 fh body = .next x)
    (h' : r'.fuStart b0 fh body = .next x') :
    x' = { x with acc := x'.acc } ∧ ∀ a < x.accLen, x'.acc.read a = x.acc.read a := by
  have hmax : r'.maxNalu = r.maxNalu := by rw [hr]
  rcases Nat.lt_or_ge r.maxNalu (5 + body.length) with hover | hfits
  · rw [Rx.fuStart_of_overflow hover] at h
    rw [Rx.fuStart_of_overflow (by omega)] at h'
    cases h
    cases h'
    exact ⟨by rw [hr]; rfl, fun a ha => absurd ha (Nat.not_lt_zero a)⟩
  · rw [Rx.fuStart_of_fits hfits] at h
    rw [Rx.fuStart_of_fits (by omega)] at h'
    cases h
    cases h'
    refine ⟨by rw [hr], fun a ha => ?_⟩
    have hin : 0 ≤ a ∧ a < 0 + ([0, 0, 0, 1] ++ synthesisedHeader b0 fh :: body).length := by
      simp at ha ⊢
      omega
    rw [Memory.read_writeBytes, Memory.read_writeBytes, if_pos hin, if_pos hin]

/-- Settles O55, by the kind of packet. -/
theorem newUnitForgetsTheOldOne : Obligations.NewUnitForgetsTheOldOne := by
  intro p s s' t t' hl hkind hrx hexec hexec'
  rw [exec_onPacket] at hexec hexec'
  obtain ⟨r, hr, rfl⟩ := State.onRx_eq_next.1 hexec
  obtain ⟨r', hr', rfl⟩ := State.onRx_eq_next.1 hexec'
  have hdiag : s'.rx.pushDiag (rtpUnpack p) = { s.rx.pushDiag (rtpUnpack p) with
      acc := (s'.rx.pushDiag (rtpUnpack p)).acc, accLen := (s'.rx.pushDiag (rtpUnpack p)).accLen } := by
    rw [hrx]
    rfl
  rcases hkind with ⟨h1, h23⟩ | ⟨hl14, h28, hs⟩
  · rw [Rx.onPacket_of_single hl h1 h23] at hr hr'
    exact Rx.single_forgets hdiag hr hr'
  · rw [Rx.onPacket_of_start hl14 h28 hs] at hr hr'
    exact Rx.fuStart_forgets hdiag hr hr'

end Sys2Proof.Machine
end

section
/-! PROOFS about the transmit side (42_packetizer.md, 43_sequence.md): the micro-operations, the two ways a unit goes out, and
the counts, lengths and header fields of the packets of one accepted call. -/

namespace Sys2Proof.Machine

/-! ### From the transmit instance to the whole state -/

/-- An operation of the transmit instance puts there the next state it answers. -/
theorem State.onTx_of_next {f : Tx → Result Tx} {s : State} {t : Tx} (h : f s.tx = .next t) :
    s.onTx f = .next { s with tx := t } := State.onTx_eq_next.2 ⟨t, h, rfl⟩

theorem exec_packetize (u : ByteString) (fps : BitVec 32) (s : State) :
    exec (.packetize u fps) s = s.onTx (fun t => t.packetize u fps) := rfl

/-! ### The counters as integers (R150, R151) -/

/-- Steps of `SEQ` add up modulo 65536. -/
theorem seq_add_toNat (seq : BitVec 16) (n : Nat) : (seq + BitVec.ofNat 16 n).toNat = (seq.toNat + n) % 65536 := by
  rw [BitVec.toNat_add, BitVec.toNat_ofNat, Nat.add_mod_mod]

/-- The timestamp after `TS_ADVANCE`, as R151 writes it. -/
theorem Tx.tsAdvance_ts_toNat (fps : BitVec 32) (t : Tx) :
    (t.tsAdvance fps).ts.toNat = (t.ts.toNat + 90000 / fps.toNat) % 2 ^ 32 := by
  rw [Tx.tsAdvance_ts, BitVec.toNat_add, BitVec.toNat_ofNat, Nat.add_mod_mod]
  rfl

theorem exec_tsAdvance (fps : BitVec 32) (s : State) : exec (.tsAdvance fps) s = s.onTx (fun t =>
    if fps = 0 then .next (t.done .badFrameRate) else .next ((t.tsAdvance fps).done .ok)) := rfl

theorem exec_tsAdvance_of_ne_zero {fps : BitVec 32} (h : fps ≠ 0) (s : State) :
    exec (.tsAdvance fps) s = .next { s with tx := (s.tx.tsAdvance fps).done .ok } :=
  (exec_tsAdvance fps s).trans (State.onTx_of_next (if_neg h))

/-- Settles O44, by whether the frame rate is 0. -/
theorem tsAdvanceAddsTheTick : Obligations.TsAdvanceAddsTheTick := by
  intro fps s
  refine ⟨fun h => ⟨(s.tx.tsAdvance fps).ts, exec_tsAdvance_of_ne_zero h s, s.tx.tsAdvance_ts_toNat fps⟩, fun h => ?_⟩
  exact (exec_tsAdvance fps s).trans (State.onTx_of_next (if_pos h))

/-! ### The outbound packet kinds (R71, R135, R137) -/

/-- The FU header of the three fragment kinds, as R137 writes it. -/
theorem fuHeader_kinds (ty : BitVec 5) : fuHeader 1 0 ty = BitVec.ofNat 8 (128 + ty.toNat) ∧
    fuHeader 0 0 ty = BitVec.ofNat 8 ty.toNat ∧ fuHeader 0 1 ty = BitVec.ofNat 8 (64 + ty.toNat) := by
  revert ty; decide

/-- A fragment kind's packet, with the fields of the header byte it carries. -/
theorem Tx.emitFragment_nalByte (f : BitVec 1) (nri : BitVec 2) (ty : BitVec 5) (sb e : BitVec 1) (b : ByteString) (t : Tx) :
    t.emitFragment (nalByte f nri ty) sb e b = { t with
      seq := t.seq + 1
      pktOut := t.pktOut ++ [rtpPack ⟨2, 0, 0, 0, e, 96, t.seq + 1, t.ts, t.ssrc⟩ ++
        nalByte f nri 28 :: fuHeader sb e ty :: b] } := by
  rw [Tx.emitFragment_eq, nalF_nalByte, nalNri_nalByte, nalType_nalByte, List.append_assoc]
  rfl

theorem exec_txFuStart (f : BitVec 1) (nri : BitVec 2) (ty : BitVec 5) (b : ByteString) (s : State) :
    exec (.txFuStart f nri ty b) s = .next { s with tx := (s.tx.emitFragment (nalByte f nri ty) 1 0 b).done .ok } := rfl

theorem exec_txFuMid (f : BitVec 1) (nri : BitVec 2) (ty : BitVec 5) (b : ByteString) (s : State) :
    exec (.txFuMid f nri ty b) s = .next { s with tx := (s.tx.emitFragment (nalByte f nri ty) 0 0 b).done .ok } := rfl

theorem exec_txFuEnd (f : BitVec 1) (nri : BitVec 2) (ty : BitVec 5) (b : ByteString) (s : State) :
    exec (.txFuEnd f nri ty b) s = .next { s with tx := (s.tx.emitFragment (nalByte f nri ty) 0 1 b).done .ok } := rfl

theorem exec_txSingle (f : BitVec 1) (nri : BitVec 2) (ty : BitVec 5) (b : ByteString) (s : State) :
    exec (.txSingle f nri ty b) s = .next { s with tx := (s.tx.emitSingle (nalByte f nri ty :: b)).done .ok } := rfl

/-- Settles O42: one step of the counter, and the packet of the kind. -/
theorem packetKindsBuildTheirPacket : Obligations.PacketKindsBuildTheirPacket := by
  intro f nri ty b s
  obtain ⟨hstart, hmid, hend⟩ := fuHeader_kinds ty
  refine ⟨s.tx.seq + 1, s.tx.seqNext_seq_toNat, exec_txSingle f nri ty b s, ?_, ?_, ?_⟩
  · rw [exec_txFuStart, Tx.emitFragment_nalByte, hstart]
    rfl
  · rw [exec_txFuMid, Tx.emitFragment_nalByte, hmid]
    rfl
  · rw [exec_txFuEnd, Tx.emitFragment_nalByte, hend]
    rfl

/-! ### The input checks of `PACKETIZE` (R131, R138, R184) -/

/-- Settles O36. -/
theorem zeroMaxPayloadRefused : Obligations.ZeroMaxPayloadRefused := by
  intro u fps s h
  rw [exec_packetize, State.onTx, Tx.packetize_eq, if_pos h]
  rfl

/-- Settles O34: the length is checked before the frame rate. -/
theorem shortUnitRejected : Obligations.ShortUnitRejected := by
  intro u fps s h hlen
  refine State.onTx_of_next ?_
  rw [Tx.packetize_eq, if_neg h, if_pos (by omega)]
  rfl

/-- Settles O35. -/
theorem zeroFrameRateRejected : Obligations.ZeroFrameRateRejected := by
  intro u s h hlen
  refine State.onTx_of_next ?_
  rw [Tx.packetize_eq, if_neg h, if_neg (by omega), if_pos rfl]
  rfl

/-- An accepted call sends its unit and ends with `OK`. -/
theorem exec_packetize_of_accepted {u : ByteString} {fps : BitVec 32} {s : State} (h : s.tx.maxPayload ≠ 0)
    (hlen : 6 ≤ u.length) (hfps : fps ≠ 0) :
    exec (.packetize u fps) s = .next { s with tx := (s.tx.sendUnit u fps).finish .ok } := by
  refine State.onTx_of_next ?_
  rw [Tx.packetize_eq, if_neg h, if_neg (by omega), if_neg hfps]

/-! ### A unit sent whole and a unit sent in fragments (R133, R135, R137) -/

theorem maxPayload_toNat_pos {m : BitVec 16} (h : m ≠ 0) : 0 < m.toNat :=
  Nat.pos_of_ne_zero (fun h0 => h (BitVec.eq_of_toNat_eq h0))

/-- The one packet of a unit that fits `MAX_PAYLOAD`. -/
theorem exec_packetize_whole {u : ByteString} {fps : BitVec 32} {s : State} (h : s.tx.maxPayload ≠ 0)
    (hlen : 6 ≤ u.length) (hfps : fps ≠ 0) (hfits : u.length - 5 ≤ s.tx.maxPayload.toNat) :
    exec (.packetize u fps) s = .next { s with tx := { s.tx with
      seq := s.tx.seq + 1
      ts := (s.tx.tsAdvance fps).ts
      pktOut := s.tx.pktOut ++
        [rtpPack ⟨2, 0, 0, 0, 1, 96, s.tx.seq + 1, (s.tx.tsAdvance fps).ts, s.tx.ssrc⟩ ++ u.drop 4]
      txStatus := s.tx.txStatus ++ [.ok]
      ended := s.tx.ended ++ [.ok] } } := by
  rw [exec_packetize_of_accepted h hlen hfps, Tx.sendUnit_eq h, if_pos hfits, Tx.emitSingle_eq]
  rfl

/-- The fragments of a longer unit, in order. -/
theorem exec_packetize_fragmented {u : ByteString} {fps : BitVec 32} {s : State} (h : s.tx.maxPayload ≠ 0)
    (hlen : 6 ≤ u.length) (hfps : fps ≠ 0) (hlong : s.tx.maxPayload.toNat < u.length - 5) :
    exec (.packetize u fps) s = .next { s with tx := { s.tx with
      seq := s.tx.seq + BitVec.ofNat 16 (fragCount (u.length - 5) s.tx.maxPayload.toNat)
      ts := (s.tx.tsAdvance fps).ts
      pktOut := s.tx.pktOut ++ (List.range (fragCount (u.length - 5) s.tx.maxPayload.toNat)).map
        (fragmentPacket s.tx.seq (s.tx.tsAdvance fps).ts s.tx.ssrc (u.drop 4) s.tx.maxPayload.toNat)
      txStatus := s.tx.txStatus ++ [.ok]
      ended := s.tx.ended ++ [.ok] } } := by
  rw [exec_packetize_of_accepted h hlen hfps, Tx.sendUnit_eq h, if_neg hlong.not_ge]
  rfl

/-- Settles O37. -/
theorem smallUnitSentWhole : Obligations.SmallUnitSentWhole := by
  intro u fps s h hlen hfps hfits
  refine ⟨s.tx.seq + 1, (s.tx.tsAdvance fps).ts, _, exec_packetize_whole h hlen hfps hfits, s.tx.seqNext_seq_toNat,
    s.tx.tsAdvance_ts_toNat fps, rfl, ?_⟩
  rw [List.length_append, length_rtpPack, List.length_drop]

/-- Settles O38. -/
theorem largeUnitFragmented : Obligations.LargeUnitFragmented := by
  intro u fps s h hlen hfps hlong
  exact ⟨_, _, exec_packetize_fragmented h hlen hfps hlong, seq_add_toNat _ _, s.tx.tsAdvance_ts_toNat fps⟩

/-! ### Counts and lengths (R142) -/

/-- A fragment is its 14 bytes of headers and its piece of the payload. -/
theorem length_fragmentPacket (seq : BitVec 16) (ts ssrc : BitVec 32) (body : ByteString) (m i : Nat) :
    (fragmentPacket seq ts ssrc body m i).length = 14 + min m (body.length - 1 - i * m) := by
  simp only [fragmentPacket, List.length_append, length_rtpPack, List.length_cons, List.length_nil, List.length_take,
    List.length_drop]

/-- Every fragment before the last is full. -/
theorem length_fragmentPacket_of_not_last {body : ByteString} {m i : Nat} (hm : 0 < m) (hp : m < body.length - 1)
    (hi : i < fragCount (body.length - 1) m - 1) (seq : BitVec 16) (ts ssrc : BitVec 32) :
    (fragmentPacket seq ts ssrc body m i).length = 14 + m := by
  obtain ⟨-, hsum, hlast, -⟩ := fragCount_spec hm hp
  have hle : (i + 1) * m ≤ (fragCount (body.length - 1) m - 1) * m := Nat.mul_le_mul_right m hi
  rw [Nat.succ_mul] at hle
  rw [length_fragmentPacket]
  omega

/-- The last fragment has what is left. -/
theorem length_fragmentPacket_last {body : ByteString} {m : Nat} (hm : 0 < m) (hp : m < body.length - 1)
    (seq : BitVec 16) (ts ssrc : BitVec 32) :
    (fragmentPacket seq ts ssrc body m (fragCount (body.length - 1) m - 1)).length =
      14 + (body.length - 1 - (fragCount (body.length - 1) m - 1) * m) := by
  obtain ⟨-, hsum, -, hle⟩ := fragCount_spec hm hp
  rw [length_fragmentPacket]
  omega

/-- The fragments before the last one, and the last one. -/
theorem range_fragCount {p m : Nat} (hm : 0 < m) (hp : m < p) :
    List.range (fragCount p m) = List.range (fragCount p m - 1) ++ [fragCount p m - 1] := by
  have h2 := (fragCount_spec hm hp).1
  rw [← List.range_succ, Nat.succ_eq_add_one, Nat.sub_add_cancel (by omega)]

/-- The fragments of a body have its payload's length in all, and 14 bytes of headers each. -/
theorem sum_length_fragments {body : ByteString} {m : Nat} (hm : 0 < m) (hp : m < body.length - 1) (seq : BitVec 16)
    (ts ssrc : BitVec 32) :
    (((List.range (fragCount (body.length - 1) m)).map (fragmentPacket seq ts ssrc body m)).map List.length).sum =
      body.length - 1 + 14 * fragCount (body.length - 1) m := by
  obtain ⟨h2, hsum, -, -⟩ := fragCount_spec hm hp
  have hfull : ((List.range (fragCount (body.length - 1) m - 1)).map
      (fun i => (fragmentPacket seq ts ssrc body m i).length)).sum = (fragCount (body.length - 1) m - 1) * (14 + m) := by
    rw [List.map_congr_left (g := fun _ => 14 + m) fun i hi =>
      length_fragmentPacket_of_not_last hm hp (List.mem_range.1 hi) seq ts ssrc]
    simp
  rw [List.map_map, range_fragCount hm hp, List.map_append, List.sum_append]
  refine (congrArg₂ (· + ·) hfull ((List.sum_singleton).trans (length_fragmentPacket_last hm hp seq ts ssrc))).trans ?_
  rw [Nat.mul_add]
  omega

/-- Settles O39, by whether the unit fits one packet. -/
theorem packetCountsAndLengths : Obligations.PacketCountsAndLengths := by
  intro u fps s h hlen hfps
  have hm := maxPayload_toNat_pos h
  rcases Nat.lt_or_ge s.tx.maxPayload.toNat (u.length - 5) with hlong | hfits
  · have hbody : (u.drop 4).length - 1 = u.length - 5 := by
      rw [List.length_drop]
      omega
    have hp : s.tx.maxPayload.toNat < (u.drop 4).length - 1 := by omega
    refine ⟨_, _, exec_packetize_fragmented h hlen hfps hlong, rfl, fun hc => absurd hc hlong.not_ge, fun _ => ?_⟩
    rw [List.length_map, List.length_range]
    refine ⟨(fragCount_spec hm hlong).1, rfl, fun q hq => ?_, ?_⟩
    · rw [range_fragCount hm hlong, List.map_append, List.map_singleton, List.dropLast_concat] at hq
      obtain ⟨i, hi, rfl⟩ := List.mem_map.1 hq
      exact length_fragmentPacket_of_not_last hm hp (hbody ▸ List.mem_range.1 hi) _ _ _
    · have hsum := sum_length_fragments hm hp s.tx.seq (s.tx.tsAdvance fps).ts s.tx.ssrc
      rwa [hbody] at hsum
  · refine ⟨_, _, exec_packetize_whole h hlen hfps hfits, rfl, fun _ => ?_, fun hc => absurd hfits hc.not_ge⟩
    rw [List.map_singleton, List.length_append, length_rtpPack, List.length_drop]
    congr 1
    omega

/-! ### The header of a packet sent (R132, R134, R154) -/

/-- The fields of a packet that begins with a header the packetizer builds. -/
theorem sentHeader_fields (m : BitVec 1) (seq : BitVec 16) (ts ssrc : BitVec 32) (rest : ByteString) :
    let b := rtpPack ⟨2, 0, 0, 0, m, 96, seq, ts, ssrc⟩ ++ rest
    byteAt b 0 = 0x80 ∧ byteAt b 1 = (if m = 1 then 0xE0 else 0x60) ∧ be16 b 2 = seq ∧ be32 b 4 = ts ∧
      be32 b 8 = ssrc := by
  have hmarker : ∀ m : BitVec 1, (m ++ (96 : BitVec 7) : Byte) = if m = 1 then 0xE0 else 0x60 := by decide
  have hfirst : ((2 : BitVec 2) ++ (0 : BitVec 1) ++ (0 : BitVec 1) ++ (0 : BitVec 4) : Byte) = 0x80 := by decide
  have hback := rtpUnpack_rtpPack ⟨2, 0, 0, 0, m, 96, seq, ts, ssrc⟩ rest
  exact ⟨hfirst, hmarker m, congrArg RtpHeader.seq hback, congrArg RtpHeader.ts hback, congrArg RtpHeader.ssrc hback⟩

/-- The header fields of fragment `i`. -/
theorem fragmentPacket_fields (seq : BitVec 16) (ts ssrc : BitVec 32) (body : ByteString) (m i : Nat) :
    let b := fragmentPacket seq ts ssrc body m i
    byteAt b 0 = 0x80 ∧ byteAt b 1 = (if i = fragCount (body.length - 1) m - 1 then 0xE0 else 0x60) ∧
      (be16 b 2).toNat = (seq.toNat + i + 1) % 65536 ∧ be32 b 4 = ts ∧ be32 b 8 = ssrc := by
  dsimp only
  rw [fragmentPacket, List.append_assoc]
  obtain ⟨h0, h1, hseq, hts, hssrc⟩ := sentHeader_fields
    (if decide (i = (body.length - 1 + m - 1) / m - 1) then 1 else 0) (seq + BitVec.ofNat 16 (i + 1)) ts ssrc _
  refine ⟨h0, h1.trans ?_, (congrArg BitVec.toNat hseq).trans (seq_add_toNat _ _), hts, hssrc⟩
  rw [fragCount]
  split <;> simp_all

/-- Settles O40, by whether the unit fits one packet: the packets are determined, and each has its header. -/
theorem markerOnTheLastPacketOnly : Obligations.MarkerOnTheLastPacketOnly := by
  intro u fps s t ps h hlen hfps hexec hps j hj
  rcases Nat.lt_or_ge s.tx.maxPayload.toNat (u.length - 5) with hlong | hfits
  · have hbody : (u.drop 4).length - 1 = u.length - 5 := by
      rw [List.length_drop]
      omega
    rw [exec_packetize_fragmented h hlen hfps hlong] at hexec
    cases hexec
    obtain rfl := List.append_cancel_left hps
    have h2 := (fragCount_spec (maxPayload_toNat_pos h) hlong).1
    obtain ⟨h0, h1, hseq, hts, hssrc⟩ := fragmentPacket_fields s.tx.seq (s.tx.tsAdvance fps).ts s.tx.ssrc (u.drop 4)
      s.tx.maxPayload.toNat j
    simp only [List.getElem_map, List.getElem_range, List.length_map, List.length_range] at hj ⊢
    refine ⟨h0, h1.trans ?_, hseq, hts, hssrc, seq_add_toNat _ _⟩
    rw [hbody]
    exact if_congr (by omega) rfl rfl
  · rw [exec_packetize_whole h hlen hfps hfits] at hexec
    cases hexec
    obtain rfl := List.append_cancel_left hps
    obtain rfl : j = 0 := by simpa using hj
    obtain ⟨h0, h1, hseq, hts, hssrc⟩ := sentHeader_fields 1 (s.tx.seq + 1) (s.tx.tsAdvance fps).ts s.tx.ssrc (u.drop 4)
    exact ⟨h0, h1, (congrArg BitVec.toNat hseq).trans s.tx.seqNext_seq_toNat, hts, hssrc, s.tx.seqNext_seq_toNat⟩

/-! ### `PACKETIZE` as its micro-operations (R130, R139) -/

theorem execAll_append (is js : List Instr) (s : State) :
    execAll (is ++ js) s = andThen (execAll is s) (execAll js) := by
  induction is generalizing s with
  | nil => rfl
  | cons i is ih =>
    rw [List.cons_append, execAll, execAll]
    cases exec i s with
    | next s' => exact ih s'
    | fault e => rfl
    | refused e => rfl

/-- Fragment `i` of `count` as an instruction: the kind by its place, with the fields of `body[0]` and the `i`-th piece. -/
def fragmentInstr (body : ByteString) (m count i : Nat) : Instr :=
  let b0 := byteAt body 0
  let piece := ((body.drop 1).drop (i * m)).take m
  if i = 0 then .txFuStart (nalF b0) (nalNri b0) (nalType b0) piece
  else if i = count - 1 then .txFuEnd (nalF b0) (nalNri b0) (nalType b0) piece
  else .txFuMid (nalF b0) (nalNri b0) (nalType b0) piece

/-- A fragment kind issued by itself sends the packet of its place. -/
theorem exec_fragmentInstr {body : ByteString} {m i : Nat} (h2 : 2 ≤ fragCount (body.length - 1) m) {seq : BitVec 16}
    {s : State} (hseq : s.tx.seq = seq + BitVec.ofNat 16 i) :
    exec (fragmentInstr body m (fragCount (body.length - 1) m) i) s = .next { s with tx := { s.tx with
      seq := seq + BitVec.ofNat 16 (i + 1)
      pktOut := s.tx.pktOut ++ [fragmentPacket seq s.tx.ts s.tx.ssrc body m i]
      ended := s.tx.ended ++ [.ok] } } := by
  have hrun : exec (fragmentInstr body m (fragCount (body.length - 1) m) i) s = .next { s with
      tx := (s.tx.emitFragment (byteAt body 0) (if decide (i = 0) then 1 else 0)
        (if decide (i = fragCount (body.length - 1) m - 1) then 1 else 0)
        (((body.drop 1).drop (i * m)).take m)).done .ok } := by
    unfold fragmentInstr
    dsimp only
    by_cases h0 : i = 0
    · have hlast : ¬ i = fragCount (body.length - 1) m - 1 := by omega
      rw [if_pos h0, exec_txFuStart, nalByte_eta, decide_eq_true h0, decide_eq_false hlast]
      rfl
    · by_cases hlast : i = fragCount (body.length - 1) m - 1
      · rw [if_neg h0, if_pos hlast, exec_txFuEnd, nalByte_eta, decide_eq_false h0, decide_eq_true hlast]
        rfl
      · rw [if_neg h0, if_neg hlast, exec_txFuMid, nalByte_eta, decide_eq_false h0, decide_eq_false hlast]
        rfl
  have hnext : s.tx.seq + 1 = seq + BitVec.ofNat 16 (i + 1) := by
    rw [hseq, BitVec.ofNat_add, BitVec.add_assoc]
    rfl
  rw [hrun, Tx.emitFragment_eq, hnext, fuHeader_eq_sum, fuIndicator_eq_mask]
  rfl

/-- The fragment kinds issued one by one send the fragments in order. -/
theorem execAll_fragmentInstr {body : ByteString} {m : Nat} (h2 : 2 ≤ fragCount (body.length - 1) m) (s : State) (k : Nat) :
    execAll ((List.range k).map (fragmentInstr body m (fragCount (body.length - 1) m))) s =
      .next { s with tx := { s.tx with
        seq := s.tx.seq + BitVec.ofNat 16 k
        pktOut := s.tx.pktOut ++ (List.range k).map (fragmentPacket s.tx.seq s.tx.ts s.tx.ssrc body m)
        ended := s.tx.ended ++ List.replicate k .ok } } := by
  induction k with
  | zero => simp [execAll]
  | succ k ih =>
    rw [List.range_succ, List.map_append, List.map_singleton, execAll_append, ih, andThen_next, execAll,
      exec_fragmentInstr h2 rfl, andThen_next, execAll, List.map_append, List.map_singleton, List.replicate_succ',
      List.append_assoc, List.append_assoc]

/-- Settles O41, by whether the unit fits one packet. -/
theorem packetizeIsItsMicroOperations : Obligations.PacketizeIsItsMicroOperations := by
  intro u fps s h hlen hfps
  dsimp only
  have hbody : (u.drop 4).length - 1 = u.length - 5 := by
    rw [List.length_drop]
    omega
  rcases Nat.lt_or_ge s.tx.maxPayload.toNat (u.length - 5) with hlong | hfits
  · have h2 : 2 ≤ fragCount ((u.drop 4).length - 1) s.tx.maxPayload.toNat :=
      hbody ▸ (fragCount_spec (maxPayload_toNat_pos h) hlong).1
    have hrun := execAll_fragmentInstr h2 { s with tx := (s.tx.tsAdvance fps).done .ok }
      (fragCount (u.length - 5) s.tx.maxPayload.toNat)
    rw [hbody] at hrun
    rw [if_neg hlong.not_ge, execAll, exec_tsAdvance_of_ne_zero hfps, andThen_next]
    exact ⟨_, hrun, exec_packetize_fragmented h hlen hfps hlong⟩
  · have hunit : byteAt (u.drop 4) 0 :: (u.drop 4).drop 1 = u.drop 4 := by
      rw [byteAt_eq_getElem (by rw [List.length_drop]; omega), List.getElem_cons_drop, List.drop_zero]
    rw [if_pos hfits, execAll, exec_tsAdvance_of_ne_zero hfps, andThen_next, execAll, exec_txSingle, nalByte_eta, hunit]
    exact ⟨_, rfl, exec_packetize_whole h hlen hfps hfits⟩

/-! ### A write of `MAX_PAYLOAD` (R29, R51, R188) -/

/-- Settles O48: the write is the step, and the number of packets is that of the new value. -/
theorem maxPayloadWriteTakesEffectNext : Obligations.MaxPayloadWriteTakesEffectNext := by
  intro s v rest hmicro hpending
  have hstep : step s = .next { s with tx := { s.tx with maxPayload := v }, pending := rest } := by
    rw [step, hmicro, hpending]
    rfl
  refine ⟨hstep, fun u fps hv hlen hfps => ?_⟩
  obtain ⟨t', ps, hexec, hout, hwhole, hfrag⟩ := packetCountsAndLengths u fps
    { s with tx := { s.tx with maxPayload := v }, pending := rest } hv hlen hfps
  refine ⟨_, t', hstep, hexec, ?_⟩
  rw [hout, List.length_append]
  congr 1
  split
  · rename_i hfits
    rw [← List.length_map, hwhole hfits]
    rfl
  · rename_i hlong
    exact (hfrag (Nat.lt_of_not_le hlong)).2.1

end Sys2Proof.Machine
end

section
/-! PROOFS about all instructions (10_state.md, 43_sequence.md section 2): whose each is, what it leaves unchanged, the status it
ends with, and how the receive phase moves. -/

namespace Sys2Proof.Machine

/-! ### The instructions of each agent -/

/-- A receive class, by its arm: a row of single units or of other types with the packet's fields, or one of the five
classes that have a row of their own. -/
inductive RxClass (i : Instr) : Prop
  | tooShort (p : ByteString) (hi : i = .rxTooShort p)
  | single (h : RtpHeader) (f : BitVec 1) (nri : BitVec 2) (rest : ByteString) (hi : ∃ x ∈ singleRows h f nri rest, i = x.2)
  | truncated (h : RtpHeader) (f : BitVec 1) (nri : BitVec 2) (hi : i = .rxFuTrunc h f nri)
  | start (h : RtpHeader) (f : BitVec 1) (nri : BitVec 2) (e r : BitVec 1) (ty : BitVec 5) (body : ByteString)
      (hi : i = .rxFuStart h f nri e r ty body)
  | mid (h : RtpHeader) (f : BitVec 1) (nri : BitVec 2) (r : BitVec 1) (ty : BitVec 5) (body : ByteString)
      (hi : i = .rxFuMid h f nri r ty body)
  | fin (h : RtpHeader) (f : BitVec 1) (nri : BitVec 2) (r : BitVec 1) (ty : BitVec 5) (body : ByteString)
      (hi : i = .rxFuEnd h f nri r ty body)
  | other (h : RtpHeader) (f : BitVec 1) (nri : BitVec 2) (rest : ByteString) (hi : ∃ x ∈ otherRows h f nri rest, i = x.2)

theorem classify_rxClass (p : ByteString) : RxClass (classify p) := by
  rcases classify_cases p with ⟨-, e⟩ | ⟨-, -, -, hx⟩ | ⟨-, -, e⟩ | ⟨-, -, -, e⟩ | ⟨-, -, -, e⟩ | ⟨-, -, -, -, e⟩ | ⟨-, -, hx⟩
  · exact .tooShort _ e
  · exact .single _ _ _ _ ⟨_, hx, rfl⟩
  · exact .truncated _ _ _ e
  · exact .start _ _ _ _ _ _ _ e
  · exact .mid _ _ _ _ _ _ e
  · exact .fin _ _ _ _ _ _ e
  · exact .other _ _ _ _ ⟨_, hx, rfl⟩

/-- A row is listed at its place in the table, counted from the first row of the list. -/
theorem exists_row_of_place {l : List (BitVec 5 × Instr)} {i : Instr} (first : Nat)
    (h : l[i.row - first]?.map Prod.snd = some i) : ∃ x ∈ l, i = x.2 := by
  obtain ⟨x, hx, hi⟩ := Option.map_eq_some_iff.1 h
  exact ⟨x, List.mem_of_getElem? hx, hi.symm⟩

/-- The receive agent's instructions are `RX_RESET`, the receive classes and `ON_PACKET`, which counts as a class. -/
theorem rx_instr_cases {i : Instr} (hi : agentOf i = .rx) : RxClass (packetClass i) ∨ ∃ n, i = .rxReset n := by
  cases i
  case rxTooShort p => exact .inl (.tooShort p rfl)
  case rxSingleT01 h f nri rest | rxSingleT02 h f nri rest | rxSingleT03 h f nri rest | rxSingleT04 h f nri rest |
    rxSingleT05 h f nri rest | rxSingleT06 h f nri rest | rxSingleT07 h f nri rest | rxSingleT08 h f nri rest |
    rxSingleT09 h f nri rest | rxSingleT10 h f nri rest | rxSingleT11 h f nri rest | rxSingleT12 h f nri rest |
    rxSingleT13 h f nri rest | rxSingleT14 h f nri rest | rxSingleT15 h f nri rest | rxSingleT16 h f nri rest |
    rxSingleT17 h f nri rest | rxSingleT18 h f nri rest | rxSingleT19 h f nri rest | rxSingleT20 h f nri rest |
    rxSingleT21 h f nri rest | rxSingleT22 h f nri rest | rxSingleT23 h f nri rest =>
    exact .inl (.single h f nri rest (exists_row_of_place 1 rfl))
  case rxFuTrunc h f nri => exact .inl (.truncated h f nri rfl)
  case rxFuStart h f nri e r ty body => exact .inl (.start h f nri e r ty body rfl)
  case rxFuMid h f nri r ty body => exact .inl (.mid h f nri r ty body rfl)
  case rxFuEnd h f nri r ty body => exact .inl (.fin h f nri r ty body rfl)
  case rxOtherT00 h f nri rest | rxOtherT24 h f nri rest | rxOtherT25 h f nri rest | rxOtherT26 h f nri rest |
    rxOtherT27 h f nri rest | rxOtherT29 h f nri rest | rxOtherT30 h f nri rest | rxOtherT31 h f nri rest =>
    exact .inl (.other h f nri rest (exists_row_of_place 28 rfl))
  case onPacket p => exact .inl (classify_rxClass p)
  case rxReset n => exact .inr ⟨n, rfl⟩
  all_goals simp [agentOf, Instr.row] at hi

/-- An instruction does what the class of its packet does. -/
theorem exec_packetClass (i : Instr) (s : State) : exec (packetClass i) s = exec i s := by
  cases i
  case onPacket p => exact (exec_onPacket_eq_classify p s).symm
  all_goals rfl

/-- A receive class is one operation of the receive instance. -/
theorem RxClass.exec_onRx {i : Instr} (hc : RxClass i) : ∃ f, ∀ s, exec i s = s.onRx f := by
  cases hc with
  | tooShort p hi => exact ⟨fun r => r.raise .packetTooShort, fun s => by rw [hi]; rfl⟩
  | single h f nri rest hi =>
    obtain ⟨x, hx, rfl⟩ := hi
    exact ⟨_, fun s => exec_singleRow hx s⟩
  | truncated h f nri hi => exact ⟨_, fun s => hi ▸ exec_rxFuTrunc h f nri s⟩
  | start h f nri e r ty body hi => exact ⟨_, fun s => hi ▸ exec_rxFuStart h f nri e r ty body s⟩
  | mid h f nri r ty body hi => exact ⟨_, fun s => hi ▸ exec_rxFuMid h f nri r ty body s⟩
  | fin h f nri r ty body hi => exact ⟨_, fun s => hi ▸ exec_rxFuEnd h f nri r ty body s⟩
  | other h f nri rest hi =>
    obtain ⟨x, hx, rfl⟩ := hi
    exact ⟨_, fun s => exec_otherRow hx s⟩

theorem exec_rxReset (n : Nat) (s : State) :
    exec (.rxReset n) s = s.onRx (fun r => .next ((r.construct n).done .ok)) := rfl

/-- An instruction of the receive agent is one operation of the receive instance. -/
theorem exec_onRx_of_agent {i : Instr} (hi : agentOf i = .rx) : ∃ f, ∀ s, exec i s = s.onRx f := by
  rcases rx_instr_cases hi with hc | ⟨n, rfl⟩
  · obtain ⟨f, hf⟩ := hc.exec_onRx
    exact ⟨f, fun s => (exec_packetClass i s).symm.trans (hf s)⟩
  · exact ⟨_, exec_rxReset n⟩

/-- An instruction of the transmit agent is one operation of the transmit instance. -/
theorem exec_onTx_of_agent {i : Instr} (hi : agentOf i = .tx) : ∃ f, ∀ s, exec i s = s.onTx f := by
  cases i
  case txSingle f nri ty b => exact ⟨fun t => .next ((t.emitSingle (nalByte f nri ty :: b)).done .ok), fun _ => rfl⟩
  case txFuStart f nri ty b => exact ⟨fun t => .next ((t.emitFragment (nalByte f nri ty) 1 0 b).done .ok), fun _ => rfl⟩
  case txFuMid f nri ty b => exact ⟨fun t => .next ((t.emitFragment (nalByte f nri ty) 0 0 b).done .ok), fun _ => rfl⟩
  case txFuEnd f nri ty b => exact ⟨fun t => .next ((t.emitFragment (nalByte f nri ty) 0 1 b).done .ok), fun _ => rfl⟩
  case packetize u fps => exact ⟨_, exec_packetize u fps⟩
  case seqNext => exact ⟨fun t => .next (t.seqNext.done .ok), fun _ => rfl⟩
  case tsAdvance fps => exact ⟨_, exec_tsAdvance fps⟩
  case txReset mp c q ts => exact ⟨fun t => .next ((t.construct mp c q ts).done .ok), fun _ => rfl⟩
  all_goals simp [agentOf, Instr.row] at hi

theorem exec_rtpDec (b : ByteString) (s : State) :
    exec (.rtpDec b) s = decodeStructure 12 (fun b => .rtp (rtpUnpack b)) b s := rfl

theorem exec_fuiDec (b : ByteString) (s : State) : exec (.fuiDec b) s =
    decodeStructure 1 (fun b => .nal (nalF (byteAt b 0)) (nalNri (byteAt b 0)) (nalType (byteAt b 0))) b s := rfl

/-- A decode gives one result, whatever the state. -/
theorem decodeStructure_gives {record : ByteString → CodecResult} (hr : ∀ b, record b ≠ .raised .truncatedInput) (w : Nat)
    (b : ByteString) : ∃ c k, c.Ends k ∧ ∀ s, decodeStructure w record b s = .next (s.giveCodec c k) := by
  rcases Nat.lt_or_ge b.length w with hshort | henough
  · exact ⟨_, _, .failed, decodeStructure_of_short hshort record⟩
  · exact ⟨_, _, .gave (hr b), decodeStructure_of_enough henough record⟩

/-- An instruction of the codec gives one result and one status, whatever the state. -/
theorem exec_giveCodec_of_agent {i : Instr} (hi : agentOf i = .codec) :
    ∃ c k, CodecResult.Ends c k ∧ ∀ s, exec i s = .next (s.giveCodec c k) := by
  have henc : ∀ b, ∃ c k, CodecResult.Ends c k ∧ ∀ s, encodeStructure b s = .next (s.giveCodec c k) :=
    fun b => ⟨.bytes b, .ok, .gave (by simp), fun _ => rfl⟩
  cases i
  case structRtpHeader => exact henc _
  case structNalHeaderH264 => exact henc _
  case structFuIndicatorH264 => exact henc _
  case structFuHeaderH264 => exact henc _
  case structNalHeaderH265 => exact henc _
  case structFuHeaderH265 => exact henc _
  case rtpEnc => exact henc _
  case nalhEnc => exact henc _
  case fuiEnc => exact henc _
  case fuhEnc => exact henc _
  case nalh265Enc => exact henc _
  case fuh265Enc => exact henc _
  case rtpDec b =>
    simp only [exec_rtpDec]
    exact decodeStructure_gives (by simp) _ b
  case nalhDec b =>
    simp only [exec_nalhDec]
    exact decodeStructure_gives (by simp) _ b
  case fuiDec b =>
    simp only [exec_fuiDec]
    exact decodeStructure_gives (by simp) _ b
  case fuhDec b =>
    simp only [exec_fuhDec]
    exact decodeStructure_gives (by simp) _ b
  case nalh265Dec b =>
    simp only [exec_nalh265Dec]
    exact decodeStructure_gives (by simp) _ b
  case fuh265Dec b =>
    simp only [exec_fuh265Dec]
    exact decodeStructure_gives (by simp) _ b
  all_goals simp [agentOf, Instr.row] at hi

/-! ### What an instruction leaves unchanged (R11, R20, R40) -/

/-- An instruction changes its own agent's part of the state, and no queue. -/
theorem exec_frame {i : Instr} {s t : State} (h : exec i s = .next t) :
    t.pending = s.pending ∧ t.micro = s.micro ∧ (agentOf i ≠ .rx → t.rx = s.rx) ∧ (agentOf i ≠ .tx → t.tx = s.tx) ∧
    (agentOf i ≠ .codec → t.codecOut = s.codecOut ∧ t.codecEnded = s.codecEnded) := by
  cases ha : agentOf i with
  | rx =>
    obtain ⟨f, hf⟩ := exec_onRx_of_agent ha
    rw [hf] at h
    obtain ⟨r, -, rfl⟩ := State.onRx_eq_next.1 h
    exact ⟨rfl, rfl, fun hne => absurd rfl hne, fun _ => rfl, fun _ => ⟨rfl, rfl⟩⟩
  | tx =>
    obtain ⟨f, hf⟩ := exec_onTx_of_agent ha
    rw [hf] at h
    obtain ⟨x, -, rfl⟩ := State.onTx_eq_next.1 h
    exact ⟨rfl, rfl, fun _ => rfl, fun hne => absurd rfl hne, fun _ => ⟨rfl, rfl⟩⟩
  | codec =>
    obtain ⟨c, k, -, hf⟩ := exec_giveCodec_of_agent ha
    rw [hf] at h
    cases h
    exact ⟨rfl, rfl, fun _ => rfl, fun _ => rfl, fun hne => absurd rfl hne⟩

/-- What an instruction does to the receive instance depends on that instance alone. -/
theorem exec_rx_congr {i : Instr} {s s' t t' : State} (h : exec i s = .next t) (h' : exec i s' = .next t')
    (hrx : s.rx = s'.rx) : t.rx = t'.rx := by
  by_cases ha : agentOf i = .rx
  · obtain ⟨f, hf⟩ := exec_onRx_of_agent ha
    rw [hf] at h h'
    obtain ⟨r, hr, rfl⟩ := State.onRx_eq_next.1 h
    obtain ⟨r', hr', rfl⟩ := State.onRx_eq_next.1 h'
    rw [← hrx, hr] at hr'
    cases hr'
    rfl
  · obtain ⟨-, -, hs, -⟩ := exec_frame h
    obtain ⟨-, -, hs', -⟩ := exec_frame h'
    rw [hs ha, hs' ha, hrx]

/-- What an instruction does to the transmit instance depends on that instance alone. -/
theorem exec_tx_congr {i : Instr} {s s' t t' : State} (h : exec i s = .next t) (h' : exec i s' = .next t')
    (htx : s.tx = s'.tx) : t.tx = t'.tx := by
  by_cases ha : agentOf i = .tx
  · obtain ⟨f, hf⟩ := exec_onTx_of_agent ha
    rw [hf] at h h'
    obtain ⟨x, hx, rfl⟩ := State.onTx_eq_next.1 h
    obtain ⟨x', hx', rfl⟩ := State.onTx_eq_next.1 h'
    rw [← htx, hx] at hx'
    cases hx'
    rfl
  · obtain ⟨-, -, -, hs, -⟩ := exec_frame h
    obtain ⟨-, -, -, hs', -⟩ := exec_frame h'
    rw [hs ha, hs' ha, htx]

/-- Settles O50: each agent's instructions are operations of its own part of the state. -/
theorem agentsShareNoState : Obligations.AgentsShareNoState := by
  refine ⟨fun i s t h => exec_frame h, fun i s s' t t' h h' => ⟨exec_rx_congr h h', exec_tx_congr h h'⟩, fun i hi => ?_⟩
  obtain ⟨c, k, -, hf⟩ := exec_giveCodec_of_agent hi
  exact ⟨c, k, hf⟩

/-! ### The configuration fields (R27, R29, R152) -/

/-- The accepted part of `PACKETIZE` leaves the configuration, and it gives no status of its own. -/
theorem Tx.sendUnit_frame {t : Tx} (h : t.maxPayload ≠ 0) (u : ByteString) (fps : BitVec 32) :
    (t.sendUnit u fps).ssrc = t.ssrc ∧ (t.sendUnit u fps).maxPayload = t.maxPayload ∧
    (t.sendUnit u fps).txStatus = t.txStatus ∧ (t.sendUnit u fps).ended = t.ended := by
  rw [Tx.sendUnit_eq h]
  split <;> exact ⟨rfl, rfl, rfl, rfl⟩

theorem Tx.Move.config {t t' : Tx} (h : t.Move t') : t'.ssrc = t.ssrc ∧ t'.maxPayload = t.maxPayload := by
  cases h with
  | sendUnit u fps h0 =>
    obtain ⟨hssrc, hmax, -, -⟩ := Tx.sendUnit_frame h0 u fps
    exact ⟨hssrc, hmax⟩
  | _ => exact ⟨rfl, rfl⟩

theorem Rx.Move.maxNalu {r r' : Rx} (h : r.Move r') : r'.maxNalu = r.maxNalu := by
  cases h with
  | tooShort => rfl
  | arm hd ha =>
    obtain ⟨k, us, -, -, -, -, -, -, hmax⟩ := ha.outputs
    exact hmax

/-- Settles O49, by what the instruction has done. -/
theorem configurationWrittenByResetOnly : Obligations.ConfigurationWrittenByResetOnly := by
  intro i s t h
  rcases exec_cases h with ⟨-, r, hmove, rfl⟩ | ⟨-, x, hmove, rfl⟩ | ⟨-, c, k, -, rfl⟩ | ⟨n, rfl, rfl⟩ |
    ⟨mp, c, q, ts, rfl, rfl⟩
  · exact ⟨fun _ => ⟨rfl, rfl⟩, fun _ => hmove.maxNalu⟩
  · exact ⟨fun _ => hmove.config, fun _ => rfl⟩
  · exact ⟨fun _ => ⟨rfl, rfl⟩, fun _ => rfl⟩
  · exact ⟨fun _ => ⟨rfl, rfl⟩, fun hne => absurd rfl (hne n)⟩
  · exact ⟨fun hne => absurd rfl (hne mp c q ts), fun _ => rfl⟩

/-! ### The status of an operation (R31, R160) -/

/-- An operation of the receive side other than `RX_RESET` ends with one status, on `rx_status` too. -/
theorem Rx.Move.status {r r' : Rx} (h : r.Move r') : ∃ k, r'.ended = r.ended ++ [k] ∧ r'.rxStatus = r.rxStatus ++ [k] ∧
    k ∉ [Status.payloadTooSmall, .badFrameRate] := by
  cases h with
  | tooShort => exact ⟨.packetTooShort, rfl, rfl, by decide⟩
  | arm hd ha =>
    cases ha with
    | truncated => exact ⟨.truncatedInput, rfl, rfl, by decide⟩
    | other => exact ⟨.unclassifiedNaluType, rfl, rfl, by decide⟩
    | overflow => exact ⟨.reassemblyOverflow, rfl, rfl, by decide⟩
    | _ => exact ⟨.ok, rfl, rfl, by decide⟩

theorem row_eq_62 {i : Instr} (h : i.row = 62) : ∃ n, i = .rxReset n := by
  cases i
  case rxReset n => exact ⟨n, rfl⟩
  all_goals simp [Instr.row] at h

theorem exec_rx_status {i : Instr} {s t : State} (hi : agentOf i = .rx) (h : exec i s = .next t) : ∃ k,
    t.rx.ended = s.rx.ended ++ [k] ∧ t.rx.rxStatus = s.rx.rxStatus ++ (if i.row = 62 then [] else [k]) ∧
    (i.row = 62 → k = .ok) ∧ k ∉ [Status.payloadTooSmall, .badFrameRate] := by
  by_cases hrow : i.row = 62
  · obtain ⟨n, rfl⟩ := row_eq_62 hrow
    cases h
    exact ⟨.ok, rfl, (List.append_nil _).symm, fun _ => rfl, by decide⟩
  · rcases exec_cases h with ⟨-, r, hmove, rfl⟩ | ⟨hne, -⟩ | ⟨hne, -⟩ | ⟨n, rfl, -⟩ | ⟨_, _, _, _, rfl, -⟩
    · obtain ⟨k, hended, hstatus, hk⟩ := hmove.status
      exact ⟨k, hended, by rw [hstatus, if_neg hrow], fun hc => absurd hc hrow, hk⟩
    · simp [hi] at hne
    · simp [hi] at hne
    · exact absurd rfl hrow
    · simp [agentOf, Instr.row] at hi

/-- Every end of a `PACKETIZE`. -/
theorem Tx.packetize_status {u : ByteString} {fps : BitVec 32} {t x : Tx} (h : t.packetize u fps = .next x) : ∃ k,
    x.ended = t.ended ++ [k] ∧ x.txStatus = t.txStatus ++ [k] ∧ k ∈ [Status.ok, .payloadTooSmall, .badFrameRate] := by
  rw [Tx.packetize_eq] at h
  split at h
  · cases h
  · rename_i hm
    obtain ⟨-, -, hstatus, hended⟩ := Tx.sendUnit_frame hm u fps
    cases h
    split
    · exact ⟨.payloadTooSmall, rfl, rfl, by decide⟩
    · split
      · exact ⟨.badFrameRate, rfl, rfl, by decide⟩
      · exact ⟨.ok, by rw [Tx.finish_ended, hended], by rw [Tx.finish_txStatus, hstatus], by decide⟩

theorem exec_tx_status {i : Instr} {s t : State} (hi : agentOf i = .tx) (h : exec i s = .next t) : ∃ k,
    t.tx.ended = s.tx.ended ++ [k] ∧ t.tx.txStatus = s.tx.txStatus ++ (if i.row = 59 then [k] else []) ∧
    (i.row ∈ [36, 37, 38, 39, 60, 63] → k = .ok) ∧ k ∈ [Status.ok, .payloadTooSmall, .badFrameRate] := by
  have hquiet : s.tx.txStatus = s.tx.txStatus ++ [] := (List.append_nil _).symm
  cases i
  case packetize u fps =>
    rw [exec_packetize] at h
    obtain ⟨x, hx, rfl⟩ := State.onTx_eq_next.1 h
    obtain ⟨k, hended, hstatus, hk⟩ := Tx.packetize_status hx
    exact ⟨k, hended, hstatus, by simp [Instr.row], hk⟩
  case tsAdvance fps =>
    by_cases hfps : fps = 0
    · rw [exec_tsAdvance, State.onTx_of_next (if_pos hfps)] at h
      cases h
      exact ⟨.badFrameRate, rfl, hquiet, by simp [Instr.row], by decide⟩
    · rw [exec_tsAdvance_of_ne_zero hfps] at h
      cases h
      exact ⟨.ok, rfl, hquiet, fun _ => rfl, by decide⟩
  case txSingle => cases h; exact ⟨.ok, rfl, hquiet, fun _ => rfl, by decide⟩
  case txFuStart => cases h; exact ⟨.ok, rfl, hquiet, fun _ => rfl, by decide⟩
  case txFuMid => cases h; exact ⟨.ok, rfl, hquiet, fun _ => rfl, by decide⟩
  case txFuEnd => cases h; exact ⟨.ok, rfl, hquiet, fun _ => rfl, by decide⟩
  case seqNext => cases h; exact ⟨.ok, rfl, hquiet, fun _ => rfl, by decide⟩
  case txReset => cases h; exact ⟨.ok, rfl, hquiet, fun _ => rfl, by decide⟩
  all_goals simp [agentOf, Instr.row] at hi

theorem exec_codec_status {i : Instr} {s t : State} (hi : agentOf i = .codec) (h : exec i s = .next t) : ∃ k,
    t.codecEnded = s.codecEnded ++ [k] ∧ k ∈ [Status.ok, .truncatedInput] ∧
    ∃ c, t.codecOut = s.codecOut ++ [c] ∧ (c = .raised .truncatedInput ↔ k = .truncatedInput) := by
  obtain ⟨c, k, hends, hf⟩ := exec_giveCodec_of_agent hi
  rw [hf] at h
  cases h
  cases hends with
  | failed => exact ⟨.truncatedInput, rfl, by decide, _, rfl, iff_of_true rfl rfl⟩
  | gave hc => exact ⟨.ok, rfl, by decide, c, rfl, iff_of_false hc (by decide)⟩

/-- Settles O59, by the agent. -/
theorem everyOperationEndsWithOneStatus : Obligations.EveryOperationEndsWithOneStatus := by
  intro i s t h
  cases hi : agentOf i with
  | rx =>
    obtain ⟨k, hk⟩ := exec_rx_status hi h
    exact ⟨k, fun _ => hk, nofun, nofun⟩
  | tx =>
    obtain ⟨k, hk⟩ := exec_tx_status hi h
    exact ⟨k, nofun, fun _ => hk, nofun⟩
  | codec =>
    obtain ⟨k, hk⟩ := exec_codec_status hi h
    exact ⟨k, nofun, nofun, fun _ => hk⟩

/-! ### The receive phase (R23, R122) -/

theorem Rx.phase_eq_idle {r : Rx} : r.phase = .idle ↔ r.accLen = 0 := by
  unfold Rx.phase
  split <;> simp_all

theorem Rx.phase_eq_assembling {r : Rx} : r.phase = .assembling ↔ r.accLen ≠ 0 := by
  unfold Rx.phase
  split <;> simp_all

/-- How a single packet leaves the phase: `IDLE`, with the unit emitted or the guard fired. -/
theorem Rx.single_phase {hdr : Byte} {rest : ByteString} {r r' : Rx} (h : r.single hdr rest = .next r') :
    r'.accLen = 0 ∧
    ((r'.rxStatus = r.rxStatus ++ [.ok] ∧ ∃ u, r'.naluOut = r.naluOut ++ [u]) ∨
      (r'.rxStatus = r.rxStatus ++ [.reassemblyOverflow] ∧ r'.naluOut = r.naluOut)) := by
  rw [Rx.single_eq] at h
  split at h <;> cases h
  · exact ⟨rfl, .inr ⟨rfl, rfl⟩⟩
  · exact ⟨rfl, .inl ⟨rfl, _, rfl⟩⟩

/-- How a start fragment leaves the phase: `ASSEMBLING`, or `IDLE` when the guard fired. -/
theorem Rx.fuStart_phase {b0 fh : Byte} {body : ByteString} {r r' : Rx} (h : r.fuStart b0 fh body = .next r') :
    (r'.accLen ≠ 0 ∧ r'.rxStatus = r.rxStatus ++ [.ok] ∧ r'.naluOut = r.naluOut) ∨
    (r'.accLen = 0 ∧ r'.rxStatus = r.rxStatus ++ [.reassemblyOverflow] ∧ r'.naluOut = r.naluOut) := by
  rw [Rx.fuStart_eq] at h
  split at h <;> cases h
  · exact .inr ⟨rfl, rfl, rfl⟩
  · refine .inl ⟨?_, rfl, rfl⟩
    rw [Rx.finish_accLen, Rx.startUnit_accLen]
    omega

/-- How a middle fragment leaves the phase: as it was, or `IDLE` when the guard fired. -/
theorem Rx.fuMid_phase {body : ByteString} {r r' : Rx} (h : r.fuMid body = .next r') :
    (r'.accLen = 0 ↔ r.accLen = 0) ∨
    (r'.accLen = 0 ∧ r'.rxStatus = r.rxStatus ++ [.reassemblyOverflow] ∧ r'.naluOut = r.naluOut) := by
  rw [Rx.fuMid_eq] at h
  split at h
  · cases h
    exact .inl Iff.rfl
  · split at h <;> cases h
    · exact .inr ⟨rfl, rfl, rfl⟩
    · refine .inl ?_
      rw [Rx.finish_accLen, Rx.append_accLen]
      omega

/-- How an end fragment leaves the phase: `IDLE`, dropped there, with the unit emitted, or the guard fired. -/
theorem Rx.fuEnd_phase {body : ByteString} {r r' : Rx} (h : r.fuEnd body = .next r') :
    r'.accLen = 0 ∧ (r.accLen = 0 ∨
      (r'.rxStatus = r.rxStatus ++ [.ok] ∧ ∃ u, r'.naluOut = r.naluOut ++ [u]) ∨
      (r'.rxStatus = r.rxStatus ++ [.reassemblyOverflow] ∧ r'.naluOut = r.naluOut)) := by
  obtain ⟨h0, rfl⟩ | ⟨-, -, rfl⟩ | ⟨-, -, u, -, rfl⟩ := Rx.fuEnd_eq_next h
  · exact ⟨h0, .inl h0⟩
  · exact ⟨rfl, .inr (.inr ⟨rfl, rfl⟩)⟩
  · exact ⟨rfl, .inr (.inl ⟨rfl, u, rfl⟩)⟩

/-- The moves of the phase that a class can make. -/
theorem RxClass.phase_moves {i : Instr} (hc : RxClass i) {s t : State} (h : exec i s = .next t) :
    (s.rx.accLen = 0 → t.rx.accLen ≠ 0 → (∃ h f nri e r ty body, i = .rxFuStart h f nri e r ty body) ∧
      t.rx.rxStatus = s.rx.rxStatus ++ [.ok] ∧ t.rx.naluOut = s.rx.naluOut) ∧
    (s.rx.accLen ≠ 0 → t.rx.accLen = 0 →
      (((∃ h f nri rest, ∃ x ∈ singleRows h f nri rest, i = x.2) ∨
          (∃ h f nri r ty body, i = .rxFuEnd h f nri r ty body)) ∧
        t.rx.rxStatus = s.rx.rxStatus ++ [.ok] ∧ ∃ u, t.rx.naluOut = s.rx.naluOut ++ [u]) ∨
      (((∃ h f nri rest, ∃ x ∈ singleRows h f nri rest, i = x.2) ∨
          (∃ h f nri e r ty body, i = .rxFuStart h f nri e r ty body) ∨
          (∃ h f nri r ty body, i = .rxFuMid h f nri r ty body) ∨
          (∃ h f nri r ty body, i = .rxFuEnd h f nri r ty body)) ∧
        t.rx.rxStatus = s.rx.rxStatus ++ [.reassemblyOverflow] ∧ t.rx.naluOut = s.rx.naluOut)) := by
  cases hc with
  | tooShort p hi =>
    subst hi
    cases h
    exact ⟨fun h0 hn => absurd h0 hn, fun hn h0 => absurd h0 hn⟩
  | truncated hd f nri hi =>
    subst hi
    cases h
    exact ⟨fun h0 hn => absurd h0 hn, fun hn h0 => absurd h0 hn⟩
  | other hd f nri rest hi =>
    obtain ⟨x, hx, rfl⟩ := hi
    rw [exec_otherRow hx] at h
    cases h
    exact ⟨fun h0 hn => absurd h0 hn, fun hn h0 => absurd h0 hn⟩
  | single hd f nri rest hi =>
    have hclass : ∃ h f nri rest, ∃ x ∈ singleRows h f nri rest, i = x.2 := ⟨hd, f, nri, rest, hi⟩
    obtain ⟨x, hx, rfl⟩ := hi
    rw [exec_singleRow hx] at h
    obtain ⟨r', hr, rfl⟩ := State.onRx_eq_next.1 h
    obtain ⟨h0, hok | hover⟩ := Rx.single_phase hr
    · exact ⟨fun _ hn => absurd h0 hn, fun _ _ => .inl ⟨.inl hclass, hok⟩⟩
    · exact ⟨fun _ hn => absurd h0 hn, fun _ _ => .inr ⟨.inl hclass, hover⟩⟩
  | start hd f nri e r ty body hi =>
    have hclass : ∃ h f nri e r ty body, i = .rxFuStart h f nri e r ty body := ⟨hd, f, nri, e, r, ty, body, hi⟩
    rw [hi, exec_rxFuStart] at h
    obtain ⟨r', hr, rfl⟩ := State.onRx_eq_next.1 h
    obtain ⟨hn, hok⟩ | ⟨h0, hover⟩ := Rx.fuStart_phase hr
    · exact ⟨fun _ _ => ⟨hclass, hok⟩, fun _ h0 => absurd h0 hn⟩
    · exact ⟨fun _ hn => absurd h0 hn, fun _ _ => .inr ⟨.inr (.inl hclass), hover⟩⟩
  | mid hd f nri r ty body hi =>
    have hclass : ∃ h f nri r ty body, i = .rxFuMid h f nri r ty body := ⟨hd, f, nri, r, ty, body, hi⟩
    rw [hi, exec_rxFuMid] at h
    obtain ⟨r', hr, rfl⟩ := State.onRx_eq_next.1 h
    obtain hsame | ⟨h0, hover⟩ := Rx.fuMid_phase hr
    · exact ⟨fun h0 hn => absurd (hsame.2 h0) hn, fun hn h0 => absurd (hsame.1 h0) hn⟩
    · exact ⟨fun _ hn => absurd h0 hn, fun _ _ => .inr ⟨.inr (.inr (.inl hclass)), hover⟩⟩
  | fin hd f nri r ty body hi =>
    have hclass : ∃ h f nri r ty body, i = .rxFuEnd h f nri r ty body := ⟨hd, f, nri, r, ty, body, hi⟩
    rw [hi, exec_rxFuEnd] at h
    obtain ⟨r', hr, rfl⟩ := State.onRx_eq_next.1 h
    obtain ⟨h0, hidle | hok | hover⟩ := Rx.fuEnd_phase hr
    · exact ⟨fun _ hn => absurd h0 hn, fun hn _ => absurd hidle hn⟩
    · exact ⟨fun _ hn => absurd h0 hn, fun _ _ => .inl ⟨.inr hclass, hok⟩⟩
    · exact ⟨fun _ hn => absurd h0 hn, fun _ _ => .inr ⟨.inr (.inr (.inr hclass)), hover⟩⟩

/-- Settles O32: an instruction of another agent moves no phase, `RX_RESET` makes it `IDLE`, and the others count as their
class. -/
theorem phaseMovesOnlyAsTheTableSays : Obligations.PhaseMovesOnlyAsTheTableSays := by
  intro i s t h
  simp only [Rx.phase_eq_idle, Rx.phase_eq_assembling]
  by_cases hi : agentOf i = .rx
  · rcases rx_instr_cases hi with hc | ⟨n, rfl⟩
    · rw [← exec_packetClass] at h
      obtain ⟨hstart, hend⟩ := hc.phase_moves h
      exact ⟨hstart, fun hn h0 => .inr (hend hn h0)⟩
    · cases h
      exact ⟨fun _ hn => absurd rfl hn, fun _ _ => .inl ⟨n, rfl⟩⟩
  · obtain ⟨-, -, hrx, -⟩ := exec_frame h
    rw [hrx hi]
    exact ⟨fun h0 hn => absurd h0 hn, fun hn h0 => absurd h0 hn⟩

end Sys2Proof.Machine
end

section
/-! PROOFS about steps (20_memory.md section 5, 43_sequence.md section 2): what a step runs, that the outputs only grow, that
every step keeps the invariant, and that under it every operation ends. -/

namespace Sys2Proof.Machine

/-! ### What a step runs (R47, R49) -/

theorem step_of_micro {s : State} {fr : Frame} {later : List Frame} (h : s.micro = fr :: later) :
    step s = runFrame .packetizer fr { s with micro := later } := by
  rw [step, h]

theorem step_of_message {s : State} {fr : Frame} {rest : List Request} (hm : s.micro = [])
    (hp : s.pending = .message fr :: rest) : step s = runFrame .host fr { s with pending := rest } := by
  rw [step, hm, hp]

theorem step_of_write {s : State} {v : BitVec 16} {rest : List Request} (hm : s.micro = [])
    (hp : s.pending = .writeMaxPayload v :: rest) :
    step s = .next { s with tx := s.tx.setMaxPayload v, pending := rest } := by
  rw [step, hm, hp]
  rfl

theorem step_of_waiting {s : State} (hm : s.micro = []) (hp : s.pending = []) : step s = .next s := by
  rw [step, hm, hp]

theorem runFrame_of_ok {fr : Frame} {i : Instr} (h : decode fr = .ok i) (who : Issuer) (s : State) :
    runFrame who fr s = if issuerOf i = who then exec i s else .refused .wrongIssuer := by
  rw [runFrame, h]

theorem runFrame_of_error {fr : Frame} {e : DecodeError} (h : decode fr = .error e) (who : Issuer) (s : State) :
    runFrame who fr s = .refused (.badFrame e) := by
  rw [runFrame, h]

theorem runFrame_of_issuer {fr : Frame} {i : Instr} (h : decode fr = .ok i) {who : Issuer} (hw : issuerOf i = who)
    (s : State) : runFrame who fr s = exec i s := by
  rw [runFrame_of_ok h, if_pos hw]

theorem runFrame_of_wrongIssuer {fr : Frame} {i : Instr} (h : decode fr = .ok i) {who : Issuer} (hw : issuerOf i ≠ who)
    (s : State) : runFrame who fr s = .refused .wrongIssuer := by
  rw [runFrame_of_ok h, if_neg hw]

/-- Settles O6: the step is `runFrame` on the frame that comes first. -/
theorem stepRunsTheDecodedInstruction : Obligations.StepRunsTheDecodedInstruction := by
  intro s rest later fr
  refine ⟨fun hm hp => ?_, fun hm => ?_, step_of_waiting⟩
  · rw [step_of_message hm hp]
    exact ⟨fun i hd hi => runFrame_of_issuer hd hi _,
      fun i hd hi => runFrame_of_wrongIssuer hd (by rw [hi]; decide) _, fun e hd => runFrame_of_error hd _ _⟩
  · rw [step_of_micro hm]
    exact ⟨fun i hd hi => runFrame_of_issuer hd hi _,
      fun i hd hi => runFrame_of_wrongIssuer hd (by rw [hi]; decide) _, fun e hd => runFrame_of_error hd _ _⟩

/-! ### The counters (R153, R171) -/

/-- Of the host's instructions only `PACKETIZE` and `TX_RESET` move the counters. -/
theorem exec_host_counters {i : Instr} {s t : State} (h : exec i s = .next t) (hi : issuerOf i = .host) :
    (t.tx.seq = s.tx.seq ∧ t.tx.ts = s.tx.ts) ∨ (∃ u fps, i = .packetize u fps) ∨ ∃ mp c q ts, i = .txReset mp c q ts := by
  by_cases ha : agentOf i = .tx
  · cases i
    case packetize u fps => exact .inr (.inl ⟨u, fps, rfl⟩)
    case txReset mp c q ts => exact .inr (.inr ⟨mp, c, q, ts, rfl⟩)
    all_goals simp [agentOf, issuerOf, Instr.row] at ha hi
  · obtain ⟨-, -, -, htx, -⟩ := exec_frame h
    rw [htx ha]
    exact .inl ⟨rfl, rfl⟩

/-- Settles O60, by what the step has taken. -/
theorem hostCannotMoveTheCounters : Obligations.HostCannotMoveTheCounters := by
  constructor
  · intro s t hm hstep
    rcases step_cases hstep with ⟨fr, later, i, hm', -⟩ | ⟨-, -, rfl⟩ | ⟨fr, rest, i, -, hp, hd, hi, hexec⟩ |
      ⟨v, rest, -, -, rfl⟩
    · rw [hm] at hm'
      cases hm'
    · exact ⟨hm, fun hne => absurd hne (by simp)⟩
    · obtain ⟨-, hmicro, -⟩ := exec_frame hexec
      refine ⟨hmicro.trans hm, fun hne => ⟨fr, rest, hp, ?_⟩⟩
      rcases exec_host_counters hexec hi with ⟨hseq, hts⟩ | ⟨u, fps, rfl⟩ | ⟨mp, c, q, ts, rfl⟩
      · exact absurd hne (by simp [hseq, hts])
      · exact .inl ⟨u, fps, hd⟩
      · exact .inr ⟨mp, c, q, ts, hd⟩
    · exact ⟨hm, fun hne => absurd hne (by simp)⟩
  · intro s fr rest i hm hp hd hrow
    have hi : issuerOf i = .packetizer := if_pos hrow
    rw [step_of_message hm hp]
    exact runFrame_of_wrongIssuer hd (by rw [hi]; decide) _

/-! ### The outputs only grow (R40, R187) -/

theorem Rx.Move.outputs_grow {r r' : Rx} (h : r.Move r') : r.naluOut <+: r'.naluOut ∧ r.rxStatus <+: r'.rxStatus ∧
    r.rxDiag <+: r'.rxDiag ∧ r.ended <+: r'.ended := by
  obtain ⟨k, hended, hstatus, -⟩ := h.status
  rw [hended, hstatus]
  cases h with
  | tooShort => exact ⟨List.prefix_rfl, List.prefix_append .., List.prefix_rfl, List.prefix_append ..⟩
  | arm hd ha =>
    obtain ⟨k, us, -, hus, -, -, -, hdiag, -⟩ := ha.outputs
    rw [hus, hdiag]
    exact ⟨List.prefix_append .., List.prefix_append .., List.prefix_append .., List.prefix_append ..⟩

/-- The accepted part of `PACKETIZE` adds packets. -/
theorem Tx.sendUnit_pktOut {t : Tx} (h : t.maxPayload ≠ 0) (u : ByteString) (fps : BitVec 32) :
    t.pktOut <+: (t.sendUnit u fps).pktOut := by
  rw [Tx.sendUnit_eq h]
  split <;> exact List.prefix_append ..

theorem Tx.Move.outputs_grow {t t' : Tx} (h : t.Move t') : t.pktOut <+: t'.pktOut ∧ t.txStatus <+: t'.txStatus ∧
    t.ended <+: t'.ended := by
  cases h with
  | raise => exact ⟨List.prefix_rfl, List.prefix_append .., List.prefix_append ..⟩
  | badRate => exact ⟨List.prefix_rfl, List.prefix_rfl, List.prefix_append ..⟩
  | seqNext => exact ⟨List.prefix_rfl, List.prefix_rfl, List.prefix_append ..⟩
  | tsAdvance => exact ⟨List.prefix_rfl, List.prefix_rfl, List.prefix_append ..⟩
  | single => exact ⟨List.prefix_append .., List.prefix_rfl, List.prefix_append ..⟩
  | fragment => exact ⟨List.prefix_append .., List.prefix_rfl, List.prefix_append ..⟩
  | sendUnit u fps h0 =>
    obtain ⟨-, -, hstatus, hended⟩ := Tx.sendUnit_frame h0 u fps
    rw [Tx.finish_pktOut, Tx.finish_txStatus, Tx.finish_ended, hstatus, hended]
    exact ⟨Tx.sendUnit_pktOut h0 u fps, List.prefix_append .., List.prefix_append ..⟩

theorem State.Extends.refl (s : State) : s.Extends s := by
  constructor <;> exact List.prefix_rfl

/-- An instruction only adds to the outputs. -/
theorem exec_extends {i : Instr} {s t : State} (h : exec i s = .next t) : s.Extends t := by
  have hs := State.Extends.refl s
  rcases exec_cases h with ⟨-, r, hmove, rfl⟩ | ⟨-, x, hmove, rfl⟩ | ⟨-, c, k, -, rfl⟩ | ⟨n, -, rfl⟩ | ⟨mp, c, q, ts, -, rfl⟩
  · obtain ⟨hout, hstatus, hdiag, hended⟩ := hmove.outputs_grow
    exact { hs with naluOut := hout, rxStatus := hstatus, rxDiag := hdiag, rxEnded := hended }
  · obtain ⟨hout, hstatus, hended⟩ := hmove.outputs_grow
    exact { hs with pktOut := hout, txStatus := hstatus, txEnded := hended }
  · exact { hs with codecOut := List.prefix_append .., codecEnded := List.prefix_append .. }
  · exact { hs with rxEnded := List.prefix_append .. }
  · exact { hs with txEnded := List.prefix_append .. }

/-- Settles O51, by what the step has taken: neither queue is an output. -/
theorem outputsOnlyGrow : Obligations.OutputsOnlyGrow := by
  intro s t hstep
  rcases step_cases hstep with ⟨fr, later, i, -, -, -, hexec⟩ | ⟨-, -, rfl⟩ | ⟨fr, rest, i, -, -, -, -, hexec⟩ |
    ⟨v, rest, -, -, rfl⟩
  · exact { exec_extends hexec with }
  · exact State.Extends.refl t
  · exact { exec_extends hexec with }
  · exact { State.Extends.refl s with }

/-! ### The invariant of the receive instance (R21, R22, R41, R118) -/

/-- The invariant speaks of the accumulator, its capacity and the units emitted, and of no other field. -/
theorem Rx.Inv.of_eq {r r' : Rx} (h : r.Inv) (hacc : r'.acc = r.acc) (hlen : r'.accLen = r.accLen)
    (hmax : r'.maxNalu = r.maxNalu) (hout : r'.naluOut = r.naluOut) : r'.Inv where
  canonical := hacc ▸ h.canonical
  inArray := by rw [hacc, hmax]; exact h.inArray
  phase := hlen ▸ h.phase
  bounded := by rw [hlen, hmax]; exact h.bounded
  filled := by unfold Rx.Filled; rw [hacc, hlen]; exact h.filled
  startCode := by rw [hacc, hlen]; exact h.startCode
  units := hout ▸ h.units

theorem Rx.Inv.finish {r : Rx} (h : r.Inv) (k : Status) : (r.finish k).Inv := h.of_eq rfl rfl rfl rfl

theorem Rx.Inv.pushDiag {r : Rx} (h : r.Inv) (hd : RtpHeader) : (r.pushDiag hd).Inv := h.of_eq rfl rfl rfl rfl

/-- An instance with an empty accumulator has nothing to keep but the memory's form and the units. -/
theorem Rx.Inv.of_idle {r : Rx} (hacc : r.acc.wf) (hin : ∀ c ∈ r.acc, c.1 < r.maxNalu) (h0 : r.accLen = 0)
    (hout : ∀ u ∈ r.naluOut, 5 ≤ u.length ∧ u.take 4 = Config.startCode) : r.Inv where
  canonical := hacc
  inArray := hin
  phase := .inl h0
  bounded := h0 ▸ Nat.zero_le _
  filled := fun a ha => absurd (h0 ▸ ha) (Nat.not_lt_zero a)
  startCode := fun hn => absurd h0 hn
  units := hout

theorem Rx.Inv.emptied {r : Rx} (h : r.Inv) : (r.setAccLen 0).Inv := .of_idle h.canonical h.inArray rfl h.units

/-- Writing inside the array keeps every address inside it. -/
theorem Memory.writeBytes_inArray {m : Memory} {n a : Nat} {b : ByteString} (h : ∀ c ∈ m, c.1 < n) (hb : a + b.length ≤ n) :
    ∀ c ∈ m.writeBytes a b, c.1 < n := by
  intro c hc
  rcases Memory.mem_writeBytes hc with ⟨-, hlt⟩ | hm
  · omega
  · exact h c hm

/-- A string read is a string whose shorter beginning is read. -/
theorem Memory.readBytes_take {m : Memory} {a n k : Nat} {b : ByteString} (h : m.readBytes a n = .ok b) (hk : k ≤ n) :
    m.readBytes a k = .ok (b.take k) := by
  obtain ⟨hlen, hread⟩ := Memory.readBytes_eq_ok.1 h
  refine Memory.readBytes_eq_ok.2 ⟨by rw [List.length_take]; omega, fun i hi => ?_⟩
  rw [hread i (by omega), List.getElem?_take_of_lt hi]

/-- Every address of a string read has a byte. -/
theorem Memory.isSome_of_readBytes {m : Memory} {n a : Nat} {b : ByteString} (h : m.readBytes 0 n = .ok b) (ha : a < n) :
    (m.read a).isSome := by
  obtain ⟨hlen, hread⟩ := Memory.readBytes_eq_ok.1 h
  have hb := hread a ha
  rw [Nat.zero_add] at hb
  rw [hb, List.getElem?_eq_getElem (by omega)]
  rfl

/-- A unit of at least 5 bytes in the accumulator, with the start code before it, meets the invariant. -/
theorem Rx.Inv.of_unit {r : Rx} {u : ByteString} (hacc : r.acc.wf) (hin : ∀ c ∈ r.acc, c.1 < r.maxNalu)
    (hout : ∀ u ∈ r.naluOut, 5 ≤ u.length ∧ u.take 4 = Config.startCode) (hread : r.acc.readBytes 0 r.accLen = .ok u)
    (hcode : u.take 4 = Config.startCode) (h5 : 5 ≤ r.accLen) (hmax : r.accLen ≤ r.maxNalu) : r.Inv where
  canonical := hacc
  inArray := hin
  phase := .inr h5
  bounded := hmax
  filled := fun _ ha => Memory.isSome_of_readBytes hread ha
  startCode := fun _ => hcode ▸ Memory.readBytes_take hread (by omega)
  units := hout

theorem Rx.Inv.startUnit {r : Rx} (h : r.Inv) (hdr : Byte) {b : ByteString} (hb : 5 + b.length ≤ r.maxNalu) :
    (r.startUnit hdr b).Inv := by
  refine .of_unit (u := Config.startCode ++ hdr :: b) ?_ ?_ h.units (Rx.startUnit_read hdr b r) rfl (Nat.le_add_right 5 _) hb
  · rw [Rx.startUnit_acc_eq]
    exact Memory.writeBytes_wf h.canonical 0 _
  · rw [Rx.startUnit_acc_eq]
    refine Memory.writeBytes_inArray h.inArray ?_
    simp [Config.startCode]
    omega

/-- The bytes below `ACC_LEN`, while assembling: they begin with the start code. -/
theorem Rx.Inv.read_unit {r : Rx} (h : r.Inv) (h0 : r.accLen ≠ 0) : ∃ u, r.acc.readBytes 0 r.accLen = .ok u ∧
    u.take 4 = Config.startCode := by
  obtain ⟨u, hu⟩ := h.filled.read
  have h5 := h.phase.resolve_left h0
  have hcode := (Memory.readBytes_take hu (k := 4) (by omega)).symm.trans (h.startCode h0)
  exact ⟨u, hu, Except.ok.inj hcode⟩

theorem Rx.Inv.append {r : Rx} (h : r.Inv) (h0 : r.accLen ≠ 0) {body : ByteString}
    (hb : r.accLen + body.length ≤ r.maxNalu) : (r.append body).Inv := by
  have h5 := h.phase.resolve_left h0
  obtain ⟨u, hu, hcode⟩ := h.read_unit h0
  have hlen := (Memory.readBytes_eq_ok.1 hu).1
  refine .of_unit (Memory.writeBytes_wf h.canonical _ _) (Memory.writeBytes_inArray h.inArray hb) h.units
    (Rx.append_read hu body) ?_ (Nat.le_trans h5 (Nat.le_add_right _ _)) hb
  rw [List.take_append_of_le_length (by omega), hcode]

/-- Emitting the unit in the accumulator and emptying it. -/
theorem Rx.Inv.emitted {r : Rx} (h : r.Inv) (h0 : r.accLen ≠ 0) {u : ByteString} (hu : r.acc.readBytes 0 r.accLen = .ok u) :
    ((r.pushNalu u).setAccLen 0).Inv := by
  refine .of_idle h.canonical h.inArray rfl (fun v hv => ?_)
  rcases List.mem_append.1 hv with hv | hv
  · exact h.units v hv
  · obtain rfl := List.mem_singleton.1 hv
    obtain ⟨w, hw, hcode⟩ := h.read_unit h0
    obtain rfl : v = w := Except.ok.inj (hu.symm.trans hw)
    have h5 := h.phase.resolve_left h0
    exact ⟨(Memory.readBytes_eq_ok.1 hu).1.symm ▸ h5, hcode⟩

/-- Every arm keeps the invariant. -/
theorem Rx.Arm.inv {r r' : Rx} (h : r.Inv) (ha : r.Arm r') : r'.Inv := by
  cases ha with
  | truncated => exact h.finish _
  | other => exact h.finish _
  | dropped => exact h.finish _
  | overflow => exact h.emptied.finish _
  | single hdr rest hfits =>
    have hunit := h.emptied.startUnit hdr hfits
    exact (hunit.emitted (Nat.ne_of_gt (Nat.lt_of_lt_of_le (by decide) (Nat.le_add_right 5 _)))
      (Rx.startUnit_read hdr rest _)).finish _
  | start hdr body hfits => exact (h.emptied.startUnit hdr hfits).finish _
  | mid body h0 hfits => exact (h.append h0 hfits).finish _
  | fin body u h0 hfits hu =>
    have hne : (r.append body).accLen ≠ 0 := by
      rw [Rx.append_accLen]
      omega
    exact ((h.append h0 hfits).emitted hne hu).finish _

theorem Rx.Move.inv {r r' : Rx} (h : r.Inv) (hm : r.Move r') : r'.Inv := by
  cases hm with
  | tooShort => exact h.finish _
  | arm hd ha => exact ha.inv (h.pushDiag hd)

theorem Rx.Inv.construct {r : Rx} (h : r.Inv) (n : Nat) : (r.construct n).Inv :=
  .of_idle (Memory.below_wf h.canonical n) (fun _ hc => (Memory.mem_below hc).1) rfl h.units

/-! ### The invariant of the transmit instance (R132) -/

/-- A packet with a header that the packetizer builds and at least one byte behind it. -/
theorem packetBegins_of_header {m : BitVec 1} {seq : BitVec 16} {ts ssrc : BitVec 32} {rest : ByteString}
    (h : 1 ≤ rest.length) : packetBegins (rtpPack ⟨2, 0, 0, 0, m, 96, seq, ts, ssrc⟩ ++ rest) := by
  obtain ⟨h0, h1, -⟩ := sentHeader_fields m seq ts ssrc rest
  refine ⟨?_, h0, ?_⟩
  · rw [List.length_append, length_rtpPack]
    omega
  · rw [h1]
    split
    · exact .inl rfl
    · exact .inr rfl

theorem packetBegins_fragmentPacket (seq : BitVec 16) (ts ssrc : BitVec 32) (body : ByteString) (m i : Nat) :
    packetBegins (fragmentPacket seq ts ssrc body m i) := by
  rw [fragmentPacket, List.append_assoc]
  exact packetBegins_of_header (Nat.le_add_left 1 _)

/-- What a move of the transmit instance adds to its packets. -/
theorem Tx.Move.packets {t t' : Tx} (h : t.Move t') :
    ∃ ps, t'.pktOut = t.pktOut ++ ps ∧ ∀ b ∈ ps, packetBegins b := by
  cases h with
  | single hdr rest =>
    refine ⟨_, rfl, fun b hb => ?_⟩
    obtain rfl := List.mem_singleton.1 hb
    exact packetBegins_of_header (Nat.le_add_left 1 _)
  | fragment hdr sb e slice =>
    refine ⟨_, rfl, fun b hb => ?_⟩
    obtain rfl := List.mem_singleton.1 hb
    rw [List.append_assoc]
    exact packetBegins_of_header (Nat.le_add_left 1 _)
  | sendUnit u fps h0 h1 =>
    rw [Tx.finish_pktOut, Tx.sendUnit_eq h0]
    split
    · refine ⟨_, rfl, fun b hb => ?_⟩
      obtain rfl := List.mem_singleton.1 hb
      refine packetBegins_of_header ?_
      rw [List.length_drop]
      omega
    · refine ⟨_, rfl, fun b hb => ?_⟩
      obtain ⟨i, -, rfl⟩ := List.mem_map.1 hb
      exact packetBegins_fragmentPacket ..
  | _ => exact ⟨[], (List.append_nil _).symm, fun b hb => absurd hb List.not_mem_nil⟩

/-! ### The invariant of the whole state -/

/-- Every instruction keeps the invariant. -/
theorem exec_keeps_inv {i : Instr} {s t : State} (hinv : s.Inv) (h : exec i s = .next t) : t.Inv := by
  rcases exec_cases h with ⟨-, r, hmove, rfl⟩ | ⟨-, x, hmove, rfl⟩ | ⟨-, c, k, -, rfl⟩ | ⟨n, -, rfl⟩ | ⟨mp, c, q, ts, -, rfl⟩
  · exact ⟨hmove.inv hinv.rx, hinv.packets⟩
  · obtain ⟨ps, hout, hps⟩ := hmove.packets
    refine ⟨hinv.rx, fun b hb => ?_⟩
    rw [hout] at hb
    exact (List.mem_append.1 hb).elim (hinv.packets b) (hps b)
  · exact ⟨hinv.rx, hinv.packets⟩
  · exact ⟨(hinv.rx.construct n).of_eq rfl rfl rfl rfl, hinv.packets⟩
  · exact ⟨hinv.rx, hinv.packets⟩

/-- Settles O53, by what the step has taken: neither queue is part of the invariant. -/
theorem stepKeepsTheInvariant : Obligations.StepKeepsTheInvariant := by
  intro s t hinv hstep
  rcases step_cases hstep with ⟨fr, later, i, -, -, -, hexec⟩ | ⟨-, -, rfl⟩ | ⟨fr, rest, i, -, -, -, -, hexec⟩ |
    ⟨v, rest, -, -, rfl⟩
  · exact exec_keeps_inv (s := { s with micro := later }) ⟨hinv.rx, hinv.packets⟩ hexec
  · exact hinv
  · exact exec_keeps_inv (s := { s with pending := rest }) ⟨hinv.rx, hinv.packets⟩ hexec
  · exact ⟨hinv.rx, hinv.packets⟩

/-- An instance just constructed meets the invariant, whatever its configuration and its counters. -/
theorem State.Inv.of_constructed {s : State} (hacc : s.rx.acc = []) (hlen : s.rx.accLen = 0) (hnalu : s.rx.naluOut = [])
    (hpkt : s.tx.pktOut = []) : s.Inv where
  rx := .of_idle (hacc ▸ Memory.wf_nil) (by simp [hacc]) hlen (by simp [hnalu])
  packets := by simp [hpkt]

/-- Settles O52. -/
theorem resetSatisfiesTheInvariant : Obligations.ResetSatisfiesTheInvariant := .of_constructed rfl rfl rfl rfl

/-! ### Every operation ends (R169, R184, R192) -/

/-- A class answers a next state when the bytes below `ACC_LEN` are there. -/
theorem RxClass.answers {i : Instr} (hc : RxClass i) {s : State} (hf : s.rx.Filled) : ∃ t, exec i s = .next t := by
  cases hc with
  | tooShort p hi => exact ⟨_, hi ▸ exec_rxTooShort p s⟩
  | single h f nri rest hi =>
    obtain ⟨x, hx, rfl⟩ := hi
    exact ⟨_, (exec_singleRow hx s).trans (State.onRx_of_next (Rx.single_eq ..))⟩
  | truncated h f nri hi => exact ⟨_, hi ▸ (exec_rxFuTrunc h f nri s).trans (State.onRx_of_next (Rx.fuTrunc_eq _))⟩
  | start h f nri e r ty body hi =>
    exact ⟨_, hi ▸ (exec_rxFuStart h f nri e r ty body s).trans (State.onRx_of_next (Rx.fuStart_eq ..))⟩
  | mid h f nri r ty body hi =>
    exact ⟨_, hi ▸ (exec_rxFuMid h f nri r ty body s).trans (State.onRx_of_next (Rx.fuMid_eq ..))⟩
  | fin h f nri r ty body hi =>
    obtain ⟨u, hu⟩ := hf.read
    exact ⟨_, hi ▸ (exec_rxFuEnd h f nri r ty body s).trans
      (State.onRx_of_next (Rx.fuEnd_of_read (r := s.rx.pushDiag h) hu body))⟩
  | other h f nri rest hi =>
    obtain ⟨x, hx, rfl⟩ := hi
    exact ⟨_, (exec_otherRow hx s).trans (State.onRx_of_next (Rx.other_eq _))⟩

/-- An instruction of the transmit agent answers a next state, but for `PACKETIZE` under `MAX_PAYLOAD = 0`. -/
theorem exec_tx_answers {i : Instr} (hi : agentOf i = .tx) (s : State) : (∃ t, exec i s = .next t) ∨
    ∃ u fps, i = .packetize u fps ∧ s.tx.maxPayload = 0 ∧ exec i s = .refused .illegalMaxPayload := by
  cases i
  case packetize u fps =>
    by_cases hm : s.tx.maxPayload = 0
    · exact .inr ⟨u, fps, rfl, hm, zeroMaxPayloadRefused u fps s hm⟩
    · exact .inl ⟨_, State.onTx_of_next ((Tx.packetize_eq u fps s.tx).trans (if_neg hm))⟩
  case tsAdvance fps =>
    by_cases hfps : fps = 0
    · exact .inl ⟨_, (exec_tsAdvance fps s).trans (State.onTx_of_next (if_pos hfps))⟩
    · exact .inl ⟨_, exec_tsAdvance_of_ne_zero hfps s⟩
  case txSingle => exact .inl ⟨_, rfl⟩
  case txFuStart => exact .inl ⟨_, rfl⟩
  case txFuMid => exact .inl ⟨_, rfl⟩
  case txFuEnd => exact .inl ⟨_, rfl⟩
  case seqNext => exact .inl ⟨_, rfl⟩
  case txReset => exact .inl ⟨_, rfl⟩
  all_goals simp [agentOf, Instr.row] at hi

/-- When the bytes below `ACC_LEN` are there, no instruction faults, and only `PACKETIZE` can be refused. -/
theorem exec_answers (i : Instr) {s : State} (hf : s.rx.Filled) : (∃ t, exec i s = .next t) ∨
    ∃ u fps, i = .packetize u fps ∧ s.tx.maxPayload = 0 ∧ exec i s = .refused .illegalMaxPayload := by
  cases hi : agentOf i with
  | rx =>
    rcases rx_instr_cases hi with hc | ⟨n, rfl⟩
    · rw [← exec_packetClass]
      exact .inl (hc.answers hf)
    · exact .inl ⟨_, rfl⟩
  | tx => exact exec_tx_answers hi s
  | codec =>
    obtain ⟨c, k, -, hgive⟩ := exec_giveCodec_of_agent hi
    exact .inl ⟨_, hgive s⟩

/-- A step runs the frame that comes first, or answers a next state without one. -/
theorem step_of_nextFrame (s : State) : (∃ t, step s = .next t) ∨
    ∃ who fr s', s.nextFrame? = some (who, fr) ∧ s'.rx = s.rx ∧ s'.tx = s.tx ∧ step s = runFrame who fr s' := by
  cases hm : s.micro with
  | cons fr later =>
    exact .inr ⟨.packetizer, fr, { s with micro := later }, by rw [State.nextFrame?, hm], rfl, rfl, step_of_micro hm⟩
  | nil =>
    cases hp : s.pending with
    | nil => exact .inl ⟨s, step_of_waiting hm hp⟩
    | cons q rest =>
      cases q with
      | message fr =>
        exact .inr ⟨.host, fr, { s with pending := rest }, by rw [State.nextFrame?, hm, hp], rfl, rfl, step_of_message hm hp⟩
      | writeMaxPayload v => exact .inl ⟨_, step_of_write hm hp⟩

/-- Settles O54: the invariant has the bytes below `ACC_LEN`, so the frame is refused or its instruction answers. -/
theorem everyOperationEnds : Obligations.EveryOperationEnds := by
  intro s hinv
  rcases step_of_nextFrame s with hnext | ⟨who, fr, s', hfr, hrx, htx, hstep⟩
  · exact .inl hnext
  · rw [hstep]
    cases hd : decode fr with
    | error e => exact .inr (.inl ⟨who, fr, e, hfr, hd, runFrame_of_error hd who s'⟩)
    | ok i =>
      by_cases hw : issuerOf i = who
      · rw [runFrame_of_issuer hd hw]
        rcases exec_answers i (s := s') (hrx.symm ▸ hinv.rx.filled) with hnext | ⟨u, fps, rfl, hm, hrefused⟩
        · exact .inl hnext
        · subst hw
          exact .inr (.inr (.inr ⟨fr, u, fps, hfr, hd, htx ▸ hm, hrefused⟩))
      · exact .inr (.inr (.inl ⟨who, fr, i, hfr, hd, hw, runFrame_of_wrongIssuer hd hw s'⟩))

end Sys2Proof.Machine
end

section
/-! PROOFS about the codec's structures, reset and the instances side by side (40_codec.md section 5, 70_reset_and_hazards.md
section 1, 60_exceptions.md R170). -/

namespace Sys2Proof.Machine

/-! ### Words of the spec's encodings -/

/-- Settles O1, by running the decoder on the words. -/
theorem specWordsDecode : Obligations.SpecWordsDecode :=
  ⟨⟨_, rfl⟩, ⟨_, rfl⟩, ⟨_, rfl⟩, ⟨_, rfl⟩, by decide⟩

/-! ### The codec (R90, R94, R102) -/

/-- The fields of the RTP header read from a byte string, as the integers of R61. -/
theorem rtpUnpack_toNat (b : ByteString) :
    let h := rtpUnpack b
    (byteAt b 0).toNat = h.v.toNat * 64 + h.p.toNat * 32 + h.x.toNat * 16 + h.cc.toNat ∧
    (byteAt b 1).toNat = h.m.toNat * 128 + h.pt.toNat := by
  have h0 := (byteAt b 0).isLt
  have h1 := (byteAt b 1).isLt
  simp only [rtpUnpack, toNat_field]
  constructor <;> omega

/-- Settles O7, by whether there are twelve bytes. -/
theorem rtpDecReadsTwelveBytes : Obligations.RtpDecReadsTwelveBytes := by
  intro b s
  rw [exec_rtpDec]
  refine ⟨fun h => decodeStructure_of_short h _ s, fun h => ⟨rtpUnpack b, decodeStructure_of_enough h _ s, ?_⟩⟩
  obtain ⟨h0, h1⟩ := rtpUnpack_toNat b
  exact ⟨h0, h1, be16_toNat b 2, be32_toNat b 4, be32_toNat b 8⟩

/-- Settles O11: `FUI_DEC` reads the structure that `NALH_DEC` reads. -/
theorem fuiDecReadsANalHeader : Obligations.FuiDecReadsANalHeader := by
  intro s
  constructor
  · exact (exec_fuiDec [] s).trans (decodeStructure_one_nil _ s)
  · intro x rest
    exact ⟨nalF x, nalNri x, nalType x, (exec_fuiDec (x :: rest) s).trans (decodeStructure_one_cons _ x rest s),
      (exec_fuiDec (x :: rest) s).trans (exec_nalhDec (x :: rest) s).symm, nalF_toNat x, nalNri_toNat x, nalType_toNat x⟩

/-- The two bytes of an H.265 NAL header are made of its own fields. -/
theorem nal265Pack_eta (x y : Byte) (rest : ByteString) :
    nal265Pack (nal265F (x :: y :: rest)) (nal265Type (x :: y :: rest)) (nal265LayerId (x :: y :: rest))
      (nal265Tid (x :: y :: rest)) = [x, y] := by
  have hbits : nal265F (x :: y :: rest) ++ nal265Type (x :: y :: rest) ++ nal265LayerId (x :: y :: rest) ++
      nal265Tid (x :: y :: rest) = x ++ y :=
    BitVec.eq_of_toNat_eq ((nal265_toNat _ _ _ _).trans (nal265_unpack_toNat (x :: y :: rest)).symm)
  rw [nal265Pack, hbits, toBe16_append]

/-- An FU indicator byte is one exactly when its type is 28. -/
theorem fuIndicator_eta_iff (x : Byte) : fuIndicator (nalF x) (nalNri x) = x ↔ nalType x = 28 := by
  revert x; decide

/-- An FU header byte is encoded again exactly when its reserved bit is 0. -/
theorem fuHeader_eta_iff (x : Byte) : fuHeader (fuS x) (fuE x) (nalType x) = x ↔ fuR x = 0 := by
  revert x; decide

/-- Settles O19, structure by structure. -/
theorem codecRoundTrips : Obligations.CodecRoundTrips := by
  refine ⟨rtpUnpack_rtpPack, rtpPack_rtpUnpack, fun f nri ty => ?_, nalByte_eta, fun f nri => ?_, fuIndicator_eta_iff,
    fun sb e ty => ?_, fuHeader_eta_iff, fun f ty l tid rest => ?_, nal265Pack_eta, fun sb e ty => ?_, fu265Byte_eta⟩
  · rw [nalF_nalByte, nalNri_nalByte, nalType_nalByte]
  · rw [nalF_fuIndicator, nalNri_fuIndicator, nalType_fuIndicator]
    rfl
  · rw [fuS_fuHeader, fuE_fuHeader, fuR_fuHeader, nalType_fuHeader]
  · obtain ⟨hf, hty, hl, htid⟩ := nal265_fields f ty l tid rest
    rw [hf, hty, hl, htid]
  · rw [fuS_fu265Byte, fuE_fu265Byte, fu265Type_fu265Byte]

/-- Settles O20: each row gives what the encoder of its structure gives. -/
theorem structRowsLayOutTheirFields : Obligations.StructRowsLayOutTheirFields := by
  intro s
  refine ⟨fun h => ⟨rfl, rtpPack h, rfl, length_rtpPack h, ?_⟩, fun f nri ty => ⟨_, rfl, nalByte_toNat f nri ty⟩,
    fun f nri => ⟨_, rfl, fuIndicator_toNat f nri⟩, fun sb e ty => ⟨_, rfl, fuHeaderByte_toNat sb e 0 ty⟩,
    fun f ty l tid => ⟨byteAt (nal265Pack f ty l tid) 0, byteAt (nal265Pack f ty l tid) 1, rfl,
      (toBe16_bytes_toNat _).trans (nal265_toNat f ty l tid)⟩, fun sb e ty => ⟨_, rfl, fu265Byte_toNat sb e ty⟩⟩
  have hback := rtpUnpack_rtpPack h []
  rwa [List.append_nil] at hback

/-! ### Reset (R33, R180, R181) -/

/-- Settles O45: the bytes kept are those below the new capacity. -/
theorem rxResetEmptiesTheAccumulator : Obligations.RxResetEmptiesTheAccumulator :=
  fun n s => ⟨s.rx.acc.below n, rfl, fun a => Memory.read_below s.rx.acc n a⟩

/-- Settles O46. -/
theorem txResetLoadsTheCounters : Obligations.TxResetLoadsTheCounters := fun _ _ _ _ _ => rfl

/-- Settles O47, field by field. -/
theorem resetIsTheConstructedState : Obligations.ResetIsTheConstructedState :=
  ⟨rfl, rfl, fun _ => rfl, rfl, rfl, rfl, rfl, rfl, rfl, rfl, rfl, rfl, rfl, rfl, rfl, rfl, by decide, by decide⟩

/-! ### Instances side by side (R47, R49, R170) -/

theorem System.stepAt_of_none {k : Nat} {sys : System} (h : sys[k]? = none) : System.stepAt k sys = .next sys :=
  System.stepAt_eq_next.2 (.inl ⟨h, rfl⟩)

theorem System.stepAt_of_some {k : Nat} {sys : System} {s s' : State} (h : sys[k]? = some s) (hs : step s = .next s') :
    System.stepAt k sys = .next (sys.set k s') :=
  System.stepAt_eq_next.2 (.inr ⟨s, s', h, hs, rfl⟩)

/-- A step of one instance leaves every other as it was. -/
theorem System.stepAt_frame {k j : Nat} {sys a : System} (h : System.stepAt k sys = .next a) (hj : j ≠ k) :
    a[j]? = sys[j]? := by
  rcases System.stepAt_eq_next.1 h with ⟨-, rfl⟩ | ⟨s, s', -, -, rfl⟩
  · rfl
  · exact List.getElem?_set_ne hj.symm

/-- The instance that steps holds the next state of its own step. -/
theorem getElem?_set_of_some {k : Nat} {sys : System} {s s' : State} (h : sys[k]? = some s) :
    (sys.set k s')[k]? = some s' := by
  rw [List.getElem?_set_self (List.getElem?_eq_some_iff.1 h).1]

/-- A step of an instance does not depend on the others: it is the same before and after the step of another one. -/
theorem System.stepAt_comm {k j : Nat} {sys a b : System} (hkj : k ≠ j) (ha : System.stepAt k sys = .next a)
    (hb : System.stepAt j sys = .next b) : ∃ c, System.stepAt j a = .next c ∧ System.stepAt k b = .next c := by
  have haj := System.stepAt_frame ha hkj.symm
  have hbk := System.stepAt_frame hb hkj
  rcases System.stepAt_eq_next.1 ha with ⟨hk, rfl⟩ | ⟨s, s', hk, hs, rfl⟩
  · exact ⟨b, hb, System.stepAt_of_none (hbk.trans hk)⟩
  · rcases System.stepAt_eq_next.1 hb with ⟨hj, rfl⟩ | ⟨q, q', hj, hq, rfl⟩
    · exact ⟨_, System.stepAt_of_none (haj.trans hj), ha⟩
    · refine ⟨_, System.stepAt_of_some (haj.trans hj) hq, ?_⟩
      rw [List.set_comm _ _ hkj]
      exact System.stepAt_of_some (hbk.trans hk) hs

/-- Settles O57: the step of an instance, its frame, and their order. -/
theorem instancesAreIndependent : Obligations.InstancesAreIndependent := by
  refine ⟨fun k sys a h => ⟨?_, fun j hj => System.stepAt_frame h hj, fun hk => ?_, fun s hk => ?_⟩,
    fun k sys s s' hk hs => ⟨_, System.stepAt_of_some hk hs, getElem?_set_of_some hk⟩,
    fun k j sys a b hkj ha hb => ⟨System.stepAt_frame ha hkj.symm, System.stepAt_frame hb hkj, System.stepAt_comm hkj ha hb⟩⟩
  · rcases System.stepAt_eq_next.1 h with ⟨-, rfl⟩ | ⟨s, s', -, -, rfl⟩
    · rfl
    · exact List.length_set
  · rw [System.stepAt_of_none hk] at h
    cases h
    rfl
  · rcases System.stepAt_eq_next.1 h with ⟨hn, -⟩ | ⟨q, s', hq, hs, rfl⟩
    · rw [hk] at hn
      cases hn
    · rw [hk] at hq
      cases hq
      exact ⟨s', hs, getElem?_set_of_some hk⟩

/-- Settles O58: the list without one position, and with one state behind it. -/
theorem dropAndConstruct : Obligations.DropAndConstruct := by
  intro k sys n mp c q ts
  refine ⟨fun j => List.getElem?_eraseIdx .., List.length_append, fun j hj => List.getElem?_append_left hj, _,
    List.getElem?_concat_length, .of_constructed rfl rfl rfl rfl, rfl⟩

end Sys2Proof.Machine
end

section
/-! PROOFS of the round trip (42_packetizer.md R140): the receiver rebuilds the unit fragment by fragment, so that after `k`
fragments its accumulator reads as the first `5 + k * MAX_PAYLOAD` bytes of the unit. -/

namespace Sys2Proof.Machine

/-! ### The beginnings of a unit -/

/-- The unit with its start code and header byte, and the first `n` bytes of its payload. -/
def unitPrefix (u : ByteString) (n : Nat) : ByteString := [0, 0, 0, 1] ++ byteAt u 4 :: (u.drop 5).take n

theorem unitPrefix_append (u : ByteString) (n m : Nat) :
    unitPrefix u n ++ ((u.drop 5).drop n).take m = unitPrefix u (n + m) := by
  rw [unitPrefix, unitPrefix, List.take_add]
  rfl

/-- A unit in start-code form is its own longest beginning. -/
theorem unitPrefix_eq_self {u : ByteString} {n : Nat} (h6 : 6 ≤ u.length) (hcode : u.take 4 = [0, 0, 0, 1])
    (hn : u.length - 5 ≤ n) : unitPrefix u n = u := by
  rw [unitPrefix, List.take_of_length_le (by rw [List.length_drop]; exact hn), byteAt_eq_getElem (by omega),
    List.getElem_cons_drop, ← hcode, List.take_append_drop]

theorem length_unitPrefix_le {u : ByteString} (h6 : 6 ≤ u.length) (n : Nat) : (unitPrefix u n).length ≤ u.length := by
  simp only [unitPrefix, List.length_append, List.length_cons, List.length_nil, List.length_take, List.length_drop]
  omega

/-! ### What a receiver makes of a fragment -/

/-- From `r` to `r'` the receiver has taken `k` packets with `OK`, emitted nothing, and its accumulator now reads as `v`. -/
structure Rx.Reassembled (r r' : Rx) (v : ByteString) (k : Nat) : Prop where
  read : r'.acc.readBytes 0 r'.accLen = .ok v
  maxNalu : r'.maxNalu = r.maxNalu
  naluOut : r'.naluOut = r.naluOut
  rxStatus : r'.rxStatus = r.rxStatus ++ List.replicate k .ok

/-- The bytes of a fragment that the receiver looks at. -/
theorem fragmentPacket_payload (seq : BitVec 16) (ts ssrc : BitVec 32) (u : ByteString) (m i : Nat) :
    let q := fragmentPacket seq ts ssrc (u.drop 4) m i
    14 ≤ q.length ∧ byteAt q 12 = (byteAt u 4 &&& 0xE0) ||| 28 ∧
    byteAt q 13 = BitVec.ofNat 8 ((if i = 0 then 128 else 0) + (if i = fragCount (u.length - 5) m - 1 then 64 else 0)
      + (byteAt u 4 &&& 0x1F).toNat) ∧
    q.drop 14 = ((u.drop 5).drop (i * m)).take m := by
  have hhdr : byteAt (u.drop 4) 0 = byteAt u 4 := by
    rw [byteAt, byteAt, List.getD_eq_getElem?_getD, List.getElem?_drop, List.getD_eq_getElem?_getD]
  have hlen : (u.drop 4).length - 1 = u.length - 5 := by
    rw [List.length_drop]
    omega
  have hfh : byteAt (fragmentPacket seq ts ssrc (u.drop 4) m i) 13 = BitVec.ofNat 8 ((if decide (i = 0) then 128 else 0) +
      (if decide (i = fragCount ((u.drop 4).length - 1) m - 1) then 64 else 0) +
      (byteAt (u.drop 4) 0 &&& 0x1F).toNat) := rfl
  have hpiece : (fragmentPacket seq ts ssrc (u.drop 4) m i).drop 14 = (((u.drop 4).drop 1).drop (i * m)).take m := rfl
  have hdrop : (u.drop 4).drop 1 = u.drop 5 := List.drop_drop
  refine ⟨by rw [length_fragmentPacket]; exact Nat.le_add_right 14 _, hhdr ▸ rfl, ?_, hdrop ▸ hpiece⟩
  simpa only [decide_eq_true_eq, hlen, hhdr] using hfh

/-- The FU indicator has type 28, and the FU header tells a start, a middle and an end fragment apart. -/
theorem fragment_bytes (x : Byte) :
    ((x &&& 0xE0) ||| 28).toNat % 32 = 28 ∧
    128 ≤ (BitVec.ofNat 8 (128 + 0 + (x &&& 0x1F).toNat)).toNat ∧
    (BitVec.ofNat 8 (0 + 0 + (x &&& 0x1F).toNat)).toNat < 64 ∧
    64 ≤ (BitVec.ofNat 8 (0 + 64 + (x &&& 0x1F).toNat)).toNat ∧
    (BitVec.ofNat 8 (0 + 64 + (x &&& 0x1F).toNat)).toNat < 128 ∧
    synthesisedHeader ((x &&& 0xE0) ||| 28) (BitVec.ofNat 8 (128 + 0 + (x &&& 0x1F).toNat)) = x := by
  revert x; decide

/-- Feeding one more packet. -/
theorem feed_concat {qs : List ByteString} {q : ByteString} {s s' : State} {r : Rx} (h : feed qs s = .next s')
    (hq : s'.rx.onPacket q = .next r) : feed (qs ++ [q]) s = .next { s' with rx := r } := by
  rw [feed, List.map_append, execAll_append]
  exact (congrArg (andThen · _) h).trans (feed_cons (qs := []) hq)

section
variable {u : ByteString} {m : Nat} (seq : BitVec 16) (ts ssrc : BitVec 32) (h6 : 6 ≤ u.length) {r : Rx}
  (hmax : u.length ≤ r.maxNalu)
include h6 hmax

/-- The first fragment begins the unit, whatever the accumulator held. -/
theorem Rx.onPacket_firstFragment (h2 : 2 ≤ fragCount (u.length - 5) m) :
    ∃ r', r.onPacket (fragmentPacket seq ts ssrc (u.drop 4) m 0) = .next r' ∧
      r.Reassembled r' (unitPrefix u (1 * m)) 1 := by
  obtain ⟨hl, h12, h13, hpiece⟩ := fragmentPacket_payload seq ts ssrc u m 0
  obtain ⟨h28, hstart, -, -, -, hsynth⟩ := fragment_bytes (byteAt u 4)
  rw [if_pos rfl, if_neg (by omega)] at h13
  rw [Nat.zero_mul, List.drop_zero] at hpiece
  have hfits : 5 + ((u.drop 5).take m).length ≤ r.maxNalu := by
    rw [List.length_take, List.length_drop]
    omega
  have hrun : r.onPacket (fragmentPacket seq ts ssrc (u.drop 4) m 0) = .next
      ((((r.pushDiag (rtpUnpack (fragmentPacket seq ts ssrc (u.drop 4) m 0))).setAccLen 0).startUnit (byteAt u 4) ((u.drop 5).take m)).finish .ok) := by
    rw [Rx.onPacket_of_start hl (by rw [h12]; exact h28) (by rw [h13]; exact hstart), h12, h13, hpiece, Rx.fuStart_eq,
      hsynth]
    exact congrArg _ (if_neg hfits.not_gt)
  refine ⟨_, hrun, ?_, rfl, rfl, rfl⟩
  rw [Nat.one_mul]
  exact Rx.startUnit_read ..

section
variable {k : Nat} {r' : Rx} (hr : r.Reassembled r' (unitPrefix u (k * m)) k)
include hr

/-- A receiver that holds a beginning of the unit has room for the next fragment. -/
theorem Rx.Reassembled.room : r'.accLen ≠ 0 ∧ r'.accLen + (((u.drop 5).drop (k * m)).take m).length ≤ r'.maxNalu := by
  have hlen := (Memory.readBytes_eq_ok.1 hr.read).1
  have hnext := length_unitPrefix_le h6 (k * m + m)
  rw [← unitPrefix_append, List.length_append, hlen] at hnext
  refine ⟨?_, by rw [hr.maxNalu]; omega⟩
  rw [← hlen, unitPrefix, List.length_append]
  exact Nat.ne_of_gt (Nat.lt_of_lt_of_le (by decide) (Nat.le_add_right 4 _))

/-- A fragment between the first and the last goes on with the unit. -/
theorem Rx.onPacket_middleFragment (hk : k ≠ 0) (hlast : k ≠ fragCount (u.length - 5) m - 1) :
    ∃ r'', r'.onPacket (fragmentPacket seq ts ssrc (u.drop 4) m k) = .next r'' ∧
      r.Reassembled r'' (unitPrefix u ((k + 1) * m)) (k + 1) := by
  obtain ⟨hl, h12, h13, hpiece⟩ := fragmentPacket_payload seq ts ssrc u m k
  obtain ⟨h28, -, hmid, -, -, -⟩ := fragment_bytes (byteAt u 4)
  obtain ⟨h0, hfits⟩ := hr.room h6 hmax
  rw [if_neg hk, if_neg hlast] at h13
  have hrun := Rx.onPacket_of_mid hl (by rw [h12]; exact h28) (by rw [h13]; exact hmid) r'
  rw [hpiece, Rx.fuMid_of_fits (r := r'.pushDiag _) h0 hfits] at hrun
  refine ⟨_, hrun, ?_, hr.maxNalu, hr.naluOut, ?_⟩
  · rw [Nat.succ_mul, ← unitPrefix_append]
    exact Rx.append_read (r := r'.pushDiag _) hr.read _
  · rw [List.replicate_succ', ← List.append_assoc, ← hr.rxStatus]
    rfl

/-- The last fragment completes the unit, which is emitted. -/
theorem Rx.onPacket_lastFragment (hcode : u.take 4 = [0, 0, 0, 1]) (hk : k ≠ 0)
    (hlast : k = fragCount (u.length - 5) m - 1) (hall : u.length - 5 ≤ k * m + m) :
    ∃ r'', r'.onPacket (fragmentPacket seq ts ssrc (u.drop 4) m k) = .next r'' ∧ r''.naluOut = r.naluOut ++ [u] ∧
      r''.accLen = 0 ∧ r''.rxStatus = r.rxStatus ++ List.replicate (k + 1) .ok := by
  obtain ⟨hl, h12, h13, hpiece⟩ := fragmentPacket_payload seq ts ssrc u m k
  obtain ⟨h28, -, -, hend, hend', -⟩ := fragment_bytes (byteAt u 4)
  obtain ⟨h0, hfits⟩ := hr.room h6 hmax
  rw [if_neg hk, if_pos hlast] at h13
  have hrun := Rx.onPacket_of_end hl (by rw [h12]; exact h28) (by rw [h13]; exact hend) (by rw [h13]; exact hend') r'
  rw [hpiece, Rx.fuEnd_of_fits (r := r'.pushDiag _) h0 hfits hr.read, unitPrefix_append,
    unitPrefix_eq_self h6 hcode hall] at hrun
  refine ⟨_, hrun, ?_, rfl, ?_⟩
  · rw [← hr.naluOut]
    rfl
  · rw [List.replicate_succ', ← List.append_assoc, ← hr.rxStatus]
    rfl

end

/-! ### Feeding the packets one by one -/

/-- After the first `k` fragments, `k` from 1 to the last but one, the receiver holds the unit's beginning. -/
theorem feed_fragments {s : State} (hs : s.rx = r) {k : Nat} (hk : 1 ≤ k) (hlast : k ≤ fragCount (u.length - 5) m - 1) :
    ∃ s', feed ((List.range k).map (fragmentPacket seq ts ssrc (u.drop 4) m)) s = .next s' ∧
      r.Reassembled s'.rx (unitPrefix u (k * m)) k := by
  subst hs
  induction k, hk using Nat.le_induction with
  | base =>
    obtain ⟨r', hrun, hr⟩ := Rx.onPacket_firstFragment seq ts ssrc h6 hmax (m := m) (by omega)
    exact ⟨_, feed_cons hrun, hr⟩
  | succ k hk ih =>
    obtain ⟨s', hfeed, hr⟩ := ih (by omega)
    obtain ⟨r'', hrun, hr''⟩ := Rx.onPacket_middleFragment seq ts ssrc h6 hmax hr (by omega) (by omega)
    rw [List.range_succ, List.map_append, List.map_singleton]
    exact ⟨_, feed_concat hfeed hrun, hr''⟩

/-- The fragments of a unit, fed in order, complete it at the last one. -/
theorem feed_allFragments (hcode : u.take 4 = [0, 0, 0, 1]) (hm : 0 < m) (hlong : m < u.length - 5) {s : State}
    (hs : s.rx = r) :
    let ps := (List.range (fragCount (u.length - 5) m)).map (fragmentPacket seq ts ssrc (u.drop 4) m)
    ∃ r1 r2, feed ps.dropLast s = .next r1 ∧ r1.rx.naluOut = r.naluOut ∧ feed ps s = .next r2 ∧
      r2.rx.naluOut = r.naluOut ++ [u] ∧ r2.rx.accLen = 0 ∧ r2.rx.rxStatus = r.rxStatus ++ List.replicate ps.length .ok := by
  intro ps
  obtain ⟨h2, hsum, -, hle⟩ := fragCount_spec hm hlong
  obtain ⟨r1, hfeed, hr⟩ := feed_fragments seq ts ssrc h6 hmax hs (k := fragCount (u.length - 5) m - 1) (by omega) le_rfl
  obtain ⟨r2, hrun, hout, hacc, hstatus⟩ :=
    Rx.onPacket_lastFragment seq ts ssrc h6 hmax hr hcode (by omega) rfl (by omega)
  have hps : ps = (List.range (fragCount (u.length - 5) m - 1)).map (fragmentPacket seq ts ssrc (u.drop 4) m) ++
      [fragmentPacket seq ts ssrc (u.drop 4) m (fragCount (u.length - 5) m - 1)] := by
    rw [← List.map_singleton, ← List.map_append, ← range_fragCount hm hlong]
  rw [hps, List.dropLast_concat, List.length_append, List.length_map, List.length_range]
  exact ⟨r1, _, hfeed, hr.naluOut, feed_concat hfeed hrun, hout, hacc, hstatus⟩

/-- A unit of type 1 to 23 sent whole comes out of the one packet. -/
theorem Rx.onPacket_wholeUnit (hcode : u.take 4 = [0, 0, 0, 1]) (h1 : 1 ≤ (byteAt u 4).toNat % 32)
    (h23 : (byteAt u 4).toNat % 32 ≤ 23) (h : RtpHeader) :
    ∃ r', r.onPacket (rtpPack h ++ u.drop 4) = .next r' ∧ r'.naluOut = r.naluOut ++ [u] ∧ r'.accLen = 0 ∧
      r'.rxStatus = r.rxStatus ++ [.ok] := by
  have hbody : u.drop 4 = byteAt u 4 :: u.drop 5 := by
    rw [byteAt_eq_getElem (by omega), List.getElem_cons_drop]
  have hunit : [0, 0, 0, 1] ++ byteAt u 4 :: u.drop 5 = u := by
    rw [← hbody, ← hcode, List.take_append_drop]
  have hl : 13 ≤ (rtpPack h ++ byteAt u 4 :: u.drop 5).length := by
    rw [List.length_append, length_rtpPack, List.length_cons]
    omega
  have hfits : 5 + (u.drop 5).length ≤ r.maxNalu := by
    rw [List.length_drop]
    omega
  have hrun : r.onPacket (rtpPack h ++ byteAt u 4 :: u.drop 5) = _ :=
    (Rx.onPacket_of_single hl h1 h23 r).trans
      (Rx.single_of_fits (r := r.pushDiag (rtpUnpack (rtpPack h ++ byteAt u 4 :: u.drop 5))) hfits (byteAt u 4))
  rw [hbody]
  refine ⟨_, hrun, ?_, rfl, rfl⟩
  rw [hunit]
  rfl

end

/-- Settles O56, by whether the unit fits one packet: the fragments are taken one by one, each leaving the receiver with a
longer beginning of the unit. -/
theorem packetizeThenDepacketizeGivesTheUnit : Obligations.PacketizeThenDepacketizeGivesTheUnit := by
  intro u fps s h6 hcode hfps hmp htype
  by_cases hlong : s.tx.maxPayload.toNat < u.length - 5
  · have hm := maxPayload_toNat_pos hmp
    refine ⟨_, _, exec_packetize_fragmented hmp h6 hfps hlong, rfl, ?_, fun r hmax =>
      feed_allFragments _ _ _ h6 hmax hcode hm hlong rfl⟩
    rw [range_fragCount hm hlong, List.map_append]
    exact List.append_ne_nil_of_right_ne_nil _ (List.cons_ne_nil _ _)
  · obtain ⟨h1, h23⟩ := htype.resolve_left hlong
    refine ⟨_, _, exec_packetize_whole hmp h6 hfps (Nat.not_lt.1 hlong), rfl, List.cons_ne_nil _ _, fun r hmax => ?_⟩
    obtain ⟨r', hrun, hout, hacc, hstatus⟩ := Rx.onPacket_wholeUnit h6 hmax hcode h1 h23 _
    exact ⟨r, _, rfl, rfl, feed_cons hrun, hout, hacc, hstatus⟩

end Sys2Proof.Machine
end
